-- ==== Sys2Proof/Word.lean ====
section
/-! DEFINITION. The word types of the sequencer: bytes of scatter memory, the 16-bit and 32-bit registers. -/

namespace Sys2Proof

/-- One byte of scatter memory (R63). -/
abbrev Byte := BitVec 8

/-- A 16-bit controller register or request field (R23, R35). -/
abbrev Half := BitVec 16

/-- A 32-bit controller register, FIFO word or request field (R23, R35). -/
abbrev Word := BitVec 32

end Sys2Proof
end

