-- ==== Sys2Proof/Syntax.lean ====
section
/-! DEFINITION. The instruction alphabet: the request descriptor (R93), the twenty operations, sub-handlers
and helpers of the opcode table (R91, R92, R100), and what can be presented to the sequencer for
selection. There is no assembler and no instruction word in memory (R29, R114). -/

namespace Sys2Proof

/-- One entry `(SEG_H, SEG_OFF, SEG_LEN)` of a scatter list (R25). The handle is an opaque identifier. -/
structure Segment where
  handle : Nat
  off    : Word
  len    : Word
  deriving DecidableEq, Repr, Inhabited

/-- A request descriptor, format `REQ` (R93): one port per latch register of R23. The same record is the
content of the request latch file `x[0..14]` with its segment table (R23, R25). The opcode, the argument
and the block numbers stand in words of 16 and 32 bits; the widths `W_OPC`, `W_ARG` and `W_BLK` that
they are held to are configuration (R5; log 28). -/
structure Request where
  /-- `opcode`, `Q_OPC` -/
  opc     : Half
  /-- `arg`, latch register `Q_ARG` -/
  arg     : Word
  /-- `rk`, expected response kind, `Q_RK` (R94) -/
  rk      : BitVec 3
  /-- `resp[0..3]`, `Q_RESP0` to `Q_RESP3` -/
  resp0   : Word
  resp1   : Word
  resp2   : Word
  resp3   : Word
  /-- `cmd_error`, `Q_ERR` (R96) -/
  err     : BitVec 4
  /-- `has_data`, `Q_HASDATA` -/
  hasData : Bool
  /-- `dir`, `D_DIR`: true = 1 = read, card to memory (R95) -/
  dir     : Bool
  /-- `blksz`, `D_BLKSZ`, in bytes -/
  blksz   : Half
  /-- `blocks`, `D_BLOCKS` -/
  blocks  : Half
  /-- `seg[i]`, the segment table; `nseg` (`D_NSEG`) is its length -/
  segs    : List Segment
  /-- `bytes_xfered`, `D_BYTES` -/
  bytes   : Word
  /-- `data_error`, `D_ERR` -/
  derr    : BitVec 4
  deriving DecidableEq, Repr, Inhabited

/-- `D_NSEG`, latch register `x[12]`: the number of entries of the segment table, stored once as the
table's length. -/
abbrev Request.nseg (r : Request) : Nat := r.segs.length

/-- The sequencer's operations, sub-handlers and helpers, one constructor per row of the opcode table. -/
inductive Instr
  /-- ATTACH_RESET (R250) -/
  | attachReset
  /-- SUBMIT of an opcode with no row of its own (R130) -/
  | submit (req : Request)
  /-- SUBMIT of `OPC_STOP` (R134) -/
  | submitStop (req : Request)
  /-- SUBMIT of `OPC_SDIO_DIRECT` (R137) -/
  | submitSec52 (req : Request)
  /-- SUBMIT of `OPC_SDIO_EXT` (R137) -/
  | submitSec53 (req : Request)
  /-- SUBMIT of `OPC_APP` (R137) -/
  | submitApp (req : Request)
  /-- APPLY (R200) -/
  | apply (clockHz : Word) (width : BitVec 8) (powerOff : Bool)
  /-- GET_CD (R210) -/
  | getCd
  /-- GET_RO (R212) -/
  | getRo
  /-- SDIO_EN (R214) -/
  | sdioEn (en : Bool)
  /-- IRQ (R150) -/
  | irq
  /-- SDIO_IRQ (R215) -/
  | sdioIrq
  /-- SUBMIT.NOCARD, the no-card path of SUBMIT (R132) -/
  | submitNocard (req : Request)
  /-- HOTPLUG (R155) -/
  | hotplug
  /-- ERRCLASS on a snapshot (R159, R160) -/
  | errclass (st : Word)
  /-- PUMP (R170) -/
  | pump
  /-- RESPCAP on a snapshot (R180) -/
  | respcap (st : Word)
  /-- DATAEND on a snapshot (R190) -/
  | dataend (st : Word)
  /-- COMPLETE with an error code (R196) -/
  | complete (e : BitVec 4)
  /-- HWRESET (R156) -/
  | hwreset
  deriving DecidableEq, Repr

/-- The operand ports (R91, R93, R95). Each operation looks at the ports R91 gives it and ignores the
rest. -/
structure Operands where
  req      : Request
  clockHz  : Word
  width    : BitVec 8
  powerOff : Bool
  en       : Bool
  deriving DecidableEq, Repr, Inhabited

/-- Format `OP`: one transaction of the upstream port, or one selection by an interrupt line (R90, R91):
the operation select `u_op` and the operand ports. -/
structure Transaction where
  select : BitVec 4
  ops    : Operands
  deriving DecidableEq, Repr, Inhabited

/-- The places inside IRQ at which a pattern over the snapshot selects a sub-handler (R92). -/
inductive Stage
  | hotplug | errclass | respcap | dataend
  deriving DecidableEq, Repr

/-- A place inside an operation in progress at which a sub-handler or helper is selected or called (R92). -/
inductive Call
  /-- format `ST` over the presence read of SUBMIT, for SUBMIT.NOCARD -/
  | presence (st : Word) (req : Request)
  /-- format `ST` over the snapshot of IRQ -/
  | stage (g : Stage) (st : Word)
  /-- format `S2` over the `STATUS2` value, for PUMP -/
  | ready (s2 : Half)
  /-- format `CALL` of COMPLETE with its error code -/
  | complete (e : BitVec 4)
  /-- format `CALL` of HWRESET -/
  | hwreset
  /-- bits that have no format of the table -/
  | unformatted (nbits w : Nat)
  deriving DecidableEq, Repr

/-- What the decoder reads: a transaction at the port, or a call inside an operation in progress. -/
inductive Selection
  | port (t : Transaction)
  | call (k : Call)
  deriving DecidableEq, Repr

end Sys2Proof
end

