-- ==== Sys2Proof/Config.lean ====
section
/-! DEFINITION. The configuration record `CFG` (R5) with the constraints on it (R118), and the free values:
opaque constants with no body, so that no proof can see a value the spec leaves open. The reference
configuration `CFG_REF` is `Cfg.ref` in Machine/Reference.lean. -/

namespace Sys2Proof

/-- The 14 registers of the controller's register block (R35, R60, R61); the FIFO port is apart (R62). -/
inductive RegName
  | cmd | arg | stop | blkCount | resp0 | resp1 | resp2 | resp3
  | irqStatus | irqMask | clkCtl | blkLen | opt | status2
  deriving DecidableEq, Repr

/-- Every register of the block, in the order of R35. -/
def RegName.all : List RegName :=
  [.cmd, .arg, .stop, .blkCount, .resp0, .resp1, .resp2, .resp3, .irqStatus, .irqMask, .clkCtl, .blkLen,
   .opt, .status2]

/-- The widths in bits of the request's numbers: `W_OPC`, `W_ARG`, `W_BLK` (R5, D2). -/
structure WidthCfg where
  opc : Nat
  arg : Nat
  blk : Nat
  deriving DecidableEq, Repr

/-- The opcodes the dispatcher treats specially (R99, D5). -/
structure OpcodeCfg where
  stop       : Half
  app        : Half
  sdioDirect : Half
  sdioExt    : Half
  deriving DecidableEq, Repr

/-- The operation-select codes `u_op` (R91, D1). -/
structure SelectCfg where
  attachReset : BitVec 4
  submit      : BitVec 4
  apply       : BitVec 4
  getCd       : BitVec 4
  getRo       : BitVec 4
  sdioEn      : BitVec 4
  irq         : BitVec 4
  sdioIrq     : BitVec 4
  deriving DecidableEq, Repr

/-- The response-kind codes (R94, D3). -/
structure KindCfg where
  none : BitVec 3
  r32  : BitVec 3
  r136 : BitVec 3
  r32b : BitVec 3
  deriving DecidableEq, Repr

/-- The error codes other than `E_NONE` (R96, D4). -/
structure ErrCfg where
  noMedium      : BitVec 4
  timeout       : BitVec 4
  dataIntegrity : BitVec 4
  io            : BitVec 4
  deriving DecidableEq, Repr

/-- `E_NONE`, which every configuration has at 0 (R96, R118). -/
def eNone : BitVec 4 := 0#4

/-- The command-word fields (R98, D7), each as the value ORed into the word; `CW_INDEX` is the field of
`indexBits` bits from bit 0 on, because the opcode is not shifted (R99). -/
structure CwCfg where
  indexBits : Nat
  app      : Half
  respNone : Half
  respR1   : Half
  respR1b  : Half
  respR2   : Half
  data     : Half
  read     : Half
  multi    : Half
  security : Half
  deriving DecidableEq, Repr

/-- The bit positions of `IRQ_STATUS` (R101, D8). -/
structure StCfg where
  respEnd     : Fin 32
  dataEnd     : Fin 32
  remove      : Fin 32
  insert      : Fin 32
  present     : Fin 32
  wp          : Fin 32
  badCmd      : Fin 32
  crcFail     : Fin 32
  stopBit     : Fin 32
  dataTimeout : Fin 32
  rxOverflow  : Fin 32
  txUnderrun  : Fin 32
  cmdTimeout  : Fin 32
  rxRdy       : Fin 32
  txRq        : Fin 32
  illAccess   : Fin 32
  deriving DecidableEq, Repr

/-- The bit positions of `STATUS2` (R106, D9). -/
structure S2Cfg where
  rxRdy : Fin 16
  txNf  : Fin 16
  deriving DecidableEq, Repr

/-- The stop-control bits (R108, D10). -/
structure StopCfg where
  stp : Half
  sec : Half
  deriving DecidableEq, Repr

/-- The clock-control fields (R110, R111, D11). `CLK_CODE` is the field of `codeBits` bits from bit 0 on,
because the code is not shifted (R200). -/
structure ClkCfg where
  codeBits  : Nat
  pinEn     : Half
  freeze    : Half
  off       : Half
  codeNoDiv : Half
  deriving DecidableEq, Repr

/-- The card-option fields (R112, D12). -/
structure OptCfg where
  retry   : Half
  timeout : Half
  noC2    : Half
  w1      : Half
  w4      : Half
  deriving DecidableEq, Repr

/-- Where a register stands and how wide it is (R35, R61): its byte offset in the register block and its
width in bits. -/
structure RegPlace where
  offset : Nat
  width  : Nat
  deriving DecidableEq, Repr

/-- The register map (R35, R61, D6): the place of each register of the block, and the block's size in
bytes. -/
structure RegMapCfg where
  cmd       : RegPlace
  arg       : RegPlace
  stop      : RegPlace
  blkCount  : RegPlace
  resp0     : RegPlace
  resp1     : RegPlace
  resp2     : RegPlace
  resp3     : RegPlace
  irqStatus : RegPlace
  irqMask   : RegPlace
  clkCtl    : RegPlace
  blkLen    : RegPlace
  opt       : RegPlace
  status2   : RegPlace
  blockSize : Nat
  deriving DecidableEq, Repr

/-- The place of a register in the map. -/
def RegMapCfg.place (m : RegMapCfg) : RegName → RegPlace
  | .cmd => m.cmd
  | .arg => m.arg
  | .stop => m.stop
  | .blkCount => m.blkCount
  | .resp0 => m.resp0
  | .resp1 => m.resp1
  | .resp2 => m.resp2
  | .resp3 => m.resp3
  | .irqStatus => m.irqStatus
  | .irqMask => m.irqMask
  | .clkCtl => m.clkCtl
  | .blkLen => m.blkLen
  | .opt => m.opt
  | .status2 => m.status2

/-- The handles obtained once at attach and held for the controller's lifetime (R20, R33, R253). -/
structure Handles where
  registerBlock : Nat
  fifoPort      : Nat
  clock         : Nat
  primaryLine   : Nat
  sdioLine      : Nat
  deriving DecidableEq, Repr

/-- Which bits the acknowledge write names (R152, D13). -/
inductive AckMode
  /-- the recognised bits that were set in the snapshot -/
  | snapshot
  /-- `IRQ_KNOWN` whatever the snapshot was -/
  | constant
  deriving DecidableEq, Repr

/-- Which pure function repacks a 136-bit response (R183, D29). -/
inductive RepackChoice
  /-- the mapping R183 writes out, the one of `CFG_REF` -/
  | conventional
  /-- any other function: the opaque `Config.openRepack` -/
  | other
  deriving DecidableEq, Repr

/-- The configuration record `CFG` (R5), plain data. -/
structure Cfg where
  /-- `HS_THRESHOLD`, in Hz -/
  hsThreshold : Nat
  /-- `SRC_CLK`, in Hz -/
  srcClk      : Nat
  /-- `NSEG_MAX` -/
  nsegMax     : Nat
  /-- `W_OPC`, `W_ARG`, `W_BLK` -/
  width       : WidthCfg
  opc         : OpcodeCfg
  sel         : SelectCfg
  rk          : KindCfg
  err         : ErrCfg
  cw          : CwCfg
  st          : StCfg
  s2          : S2Cfg
  stop        : StopCfg
  clk         : ClkCfg
  opt         : OptCfg
  reg         : RegMapCfg
  ackMode     : AckMode
  /-- `WP_POLARITY`: the level of `ST_WP` that means write-protected -/
  wpPolarity  : Bool
  repack      : RepackChoice
  handles     : Handles
  deriving DecidableEq, Repr

/-- A word with exactly one bit set (R118: "each a single bit"). -/
abbrev isSingleBit (v : Half) : Prop := v ≠ 0#16 ∧ v &&& (v - 1#16) = 0#16

/-- Pairwise non-overlapping fields of a 16-bit word (R118). -/
abbrev noOverlap (fields : List Half) : Prop := fields.Pairwise fun a b => a &&& b = 0#16

/-- The 16-bit word with its `n` lowest bits set. -/
def lowMask (n : Nat) : Half := BitVec.ofNat 16 (2 ^ n - 1)

/-- The bits of the command word that hold `CW_INDEX` (R98). -/
def CwCfg.index (c : CwCfg) : Half := lowMask c.indexBits

/-- The bits of the command word that hold `CW_RESP` (R98). -/
def CwCfg.resp (c : CwCfg) : Half := c.respNone ||| c.respR1 ||| c.respR1b ||| c.respR2

/-- Every bit of the command word that belongs to a field (R98). -/
def CwCfg.fields (c : CwCfg) : Half :=
  c.index ||| c.app ||| c.resp ||| c.data ||| c.read ||| c.multi ||| c.security

/-- The bits of the clock word that hold `CLK_CODE` (R110). -/
def ClkCfg.code (c : ClkCfg) : Half := lowMask c.codeBits

/-- Every named bit of `ST`, in the order of R101. -/
def StCfg.bits (t : StCfg) : List (Fin 32) :=
  [t.respEnd, t.dataEnd, t.remove, t.insert, t.present, t.wp, t.badCmd, t.crcFail, t.stopBit,
   t.dataTimeout, t.rxOverflow, t.txUnderrun, t.cmdTimeout, t.rxRdy, t.txRq, t.illAccess]

/-- The operation-select codes, in the order of R91. -/
def SelectCfg.codes (c : SelectCfg) : List (BitVec 4) :=
  [c.attachReset, c.submit, c.apply, c.getCd, c.getRo, c.sdioEn, c.irq, c.sdioIrq]

/-- The error codes a request can be given: `E_NONE` and the four of R96. -/
def ErrCfg.codes (c : ErrCfg) : List (BitVec 4) :=
  [eNone, c.noMedium, c.timeout, c.dataIntegrity, c.io]

/-- R118, the register map: distinct offsets, each register wholly inside the block; no register of the
block is wider than the 32 bits a register value is held in (log 28). -/
abbrev RegMapCfg.valid (m : RegMapCfg) : Prop :=
  (RegName.all.map fun r => (m.place r).offset).Nodup ∧
    ∀ r ∈ RegName.all, (m.place r).width ≤ 32
      ∧ (m.place r).offset + ((m.place r).width + 7) / 8 ≤ m.blockSize

/-- The request's widths fit the words the request's numbers are held in (log 28), and the special opcodes
fit `W_OPC`. -/
abbrev WidthCfg.valid (w : WidthCfg) (o : OpcodeCfg) : Prop :=
  w.opc ≤ 16 ∧ w.arg ≤ 32 ∧ w.blk ≤ 16 ∧
    o.stop.toNat < 2 ^ w.opc ∧ o.app.toNat < 2 ^ w.opc ∧ o.sdioDirect.toNat < 2 ^ w.opc
    ∧ o.sdioExt.toNat < 2 ^ w.opc

/-- R118, the command word: fields do not overlap, `CW_INDEX` is at least `W_OPC` bits wide and inside the
word, the four response values are distinct. -/
abbrev CwCfg.valid (c : CwCfg) (w : WidthCfg) : Prop :=
  noOverlap [c.index, c.app, c.resp, c.data, c.read, c.multi, c.security]
    ∧ w.opc ≤ c.indexBits ∧ c.indexBits ≤ 16 ∧ [c.respNone, c.respR1, c.respR1b, c.respR2].Nodup

/-- R118, the clock word. -/
abbrev ClkCfg.valid (c : ClkCfg) : Prop :=
  noOverlap [c.code, c.pinEn, c.freeze] ∧ c.codeBits ≤ 16 ∧ c.off &&& c.pinEn = 0#16

/-- The fixed default options (R112). -/
def OptCfg.defaults (o : OptCfg) : Half := o.retry ||| o.timeout ||| o.noC2

/-- R118, the option word. -/
abbrev OptCfg.valid (o : OptCfg) : Prop :=
  o.w1 ≠ o.w4 ∧ o.w1 &&& o.defaults = 0#16 ∧ o.w4 &&& o.defaults = 0#16

/-- The constraints a `CFG` must meet: R118, with D5 (the four opcodes pairwise distinct), D2
(`NSEG_MAX` at least 1), and distinct select and kind codes (log 20, DEDUCED). The group and mask
constraints of R118 on `ST` follow from the distinct bits, because the masks are built from them. -/
structure Cfg.Valid (c : Cfg) : Prop where
  nsegMax : 1 ≤ c.nsegMax
  opcodes : [c.opc.stop, c.opc.app, c.opc.sdioDirect, c.opc.sdioExt].Nodup
  selects : c.sel.codes.Nodup
  kinds   : [c.rk.none, c.rk.r32, c.rk.r136, c.rk.r32b].Nodup
  errs    : c.err.codes.Nodup
  widths  : c.width.valid c.opc
  cw      : c.cw.valid c.width
  st      : c.st.bits.Nodup
  s2      : c.s2.rxRdy ≠ c.s2.txNf
  stop    : c.stop.stp ≠ c.stop.sec ∧ isSingleBit c.stop.stp ∧ isSingleBit c.stop.sec
  clk     : c.clk.valid
  opt     : c.opt.valid
  reg     : c.reg.valid

namespace Config

/-- FREE VALUE. The n-th unconstrained 32-bit draw of a run: an answer of the controller the input script
does not give (R78), a response word of an unrecognised kind (R184), a register left by `HwReset`
(R156), a latch register left by ATTACH_RESET (R250). Log 3. -/
opaque freeWord : Nat → Word

/-- FREE VALUE. The n-th unconstrained segment table, left by ATTACH_RESET (R250). Log 6. -/
opaque freeSegments : Nat → List Segment

/-- FREE VALUE. The n-th unconstrained segment index, left in `CUR_I` by ATTACH_RESET (R250). Log 6. -/
opaque freeIndex : Nat → Nat

/-- FREE VALUE. The repacking function of a configuration that does not take the conventional one (R183,
D29: any pure function of four words to four words). Log 26. -/
opaque openRepack : Word → Word → Word → Word → Word × Word × Word × Word

/-- FREE VALUE. The duration `T_SETTLE` (R5, D42). No rule depends on it. Log 17. -/
opaque tSettle : Nat

end Config

/-- The named durations an operation can hold for (R8 `Delay(T)`): `T_SETTLE` is the only one (R207). -/
inductive DelayName
  | tSettle
  deriving DecidableEq, Repr

/-- How long a named delay lasts: not known (R207, D42). -/
def DelayName.duration : DelayName → Nat
  | .tSettle => Config.tSettle

end Sys2Proof
end

