-- ==== Sys2Proof/Machine/Reference.lean ====
section
/-! DEFINITION. `CFG_REF`, the reference configuration (R5): every number of R91, R94, R96, R98 to R112 and the
register map of R35. The values the spec leaves open even here are named in log 13 and log 19. -/

namespace Sys2Proof

/-- `CFG_REF` (R5). `SRC_CLK` is the rate of the document's example and of the test vectors; `NSEG_MAX`,
the register block's size and the handles are DESIGN CHOICE (log 13, 19). -/
def Cfg.ref : Cfg where
  hsThreshold := 5000000
  srcClk := 16000000
  nsegMax := 128
  width := { opc := 6, arg := 32, blk := 16 }
  opc := { stop := 12, app := 55, sdioDirect := 52, sdioExt := 53 }
  sel := { attachReset := 0x0, submit := 0x1, apply := 0x2, getCd := 0x3, getRo := 0x4, sdioEn := 0x5,
           irq := 0x8, sdioIrq := 0x9 }
  rk := { none := 0, r32 := 1, r136 := 2, r32b := 3 }
  err := { noMedium := 1, timeout := 2, dataIntegrity := 3, io := 4 }
  cw := { indexBits := 6, app := 0x0040, respNone := 0x0300, respR1 := 0x0400, respR1b := 0x0500, respR2 := 0x0600,
          data := 0x0800, read := 0x1000, multi := 0x2000, security := 0x4000 }
  st := { respEnd := 0, dataEnd := 2, remove := 3, insert := 4, present := 5, wp := 7, badCmd := 16,
          crcFail := 17, stopBit := 18, dataTimeout := 19, rxOverflow := 20, txUnderrun := 21,
          cmdTimeout := 22, rxRdy := 24, txRq := 25, illAccess := 31 }
  s2 := { rxRdy := 8, txNf := 9 }
  stop := { stp := 0x0001, sec := 0x0100 }
  clk := { codeBits := 8, pinEn := 0x0100, freeze := 0x0200, off := 0x0000, codeNoDiv := 0x0000 }
  opt := { retry := 0x000E, timeout := 0x00E0, noC2 := 0x4000, w1 := 0x8000, w4 := 0x0000 }
  reg := { cmd := ⟨0x00, 16⟩, arg := ⟨0x04, 32⟩, stop := ⟨0x08, 16⟩, blkCount := ⟨0x0A, 16⟩,
           resp0 := ⟨0x0C, 32⟩, resp1 := ⟨0x10, 32⟩, resp2 := ⟨0x14, 32⟩, resp3 := ⟨0x18, 32⟩,
           irqStatus := ⟨0x1C, 32⟩, irqMask := ⟨0x20, 32⟩, clkCtl := ⟨0x24, 16⟩, blkLen := ⟨0x26, 16⟩,
           opt := ⟨0x28, 16⟩, status2 := ⟨0x100, 16⟩, blockSize := 0x102 }
  ackMode := .snapshot
  wpPolarity := true
  repack := .conventional
  handles := { registerBlock := 0, fifoPort := 1, clock := 2, primaryLine := 3, sdioLine := 4 }

end Sys2Proof
end

