-- ==== Sys2Proof/Machine/Flags.lean ====
section
/-! DEFINITION. Status-bit and mask computations: the snapshot of `IRQ_STATUS` (R101 to R105), the secondary
status (R106), the acknowledge set (R152), error classification (R159). The hardware has no arithmetic
flags (R208), so these are all the flags there are. -/

namespace Sys2Proof

/-- `st[i]`, one bit of a 32-bit status word (R6). -/
def stBit (st : Word) (i : Fin 32) : Bool := st.getLsbD i.val

/-- The mask with bit `i` alone. -/
def bitMask (i : Fin 32) : Word := 1#32 <<< i.val

/-- `HOTPLUG_EV` (R103). -/
def Cfg.hotplugEv (c : Cfg) : Word := bitMask c.st.insert ||| bitMask c.st.remove

/-- `ERR_GROUP` (R103): the eight error bits. -/
def Cfg.errGroup (c : Cfg) : Word :=
  bitMask c.st.badCmd ||| bitMask c.st.crcFail ||| bitMask c.st.stopBit ||| bitMask c.st.dataTimeout
    ||| bitMask c.st.rxOverflow ||| bitMask c.st.txUnderrun ||| bitMask c.st.cmdTimeout
    ||| bitMask c.st.illAccess

/-- `ERR_OTHER` (R103): the error group without command timeout and CRC failure. -/
def Cfg.errOther (c : Cfg) : Word :=
  c.errGroup &&& ~~~(bitMask c.st.cmdTimeout ||| bitMask c.st.crcFail)

/-- `DATA_RDY` (R103). -/
def Cfg.dataRdy (c : Cfg) : Word := bitMask c.st.rxRdy ||| bitMask c.st.txRq

/-- `IRQ_KNOWN` (R104): every event bit of R101, no level bit. -/
def Cfg.irqKnown (c : Cfg) : Word :=
  bitMask c.st.respEnd ||| bitMask c.st.dataEnd ||| c.hotplugEv ||| c.errGroup ||| c.dataRdy

/-- Whether the snapshot shows an insertion or a removal (R154). -/
def hotplugEvent (c : Cfg) (st : Word) : Bool := st &&& c.hotplugEv != 0#32

/-- `A`, the set of event bits the acknowledge write names (R152). -/
def ackSet (c : Cfg) (st : Word) : Word :=
  match c.ackMode with
  | .snapshot => st &&& c.irqKnown
  | .constant => c.irqKnown

/-- The classification of one interrupt batch (R159). -/
inductive ErrClass
  | noError | timeout | dataIntegrity | io
  deriving DecidableEq, Repr

/-- ERRCLASS's priority chain: command timeout, then CRC failure, then any other error bit (R159). -/
def classify (c : Cfg) (st : Word) : ErrClass :=
  if stBit st c.st.cmdTimeout then .timeout
  else if stBit st c.st.crcFail then .dataIntegrity
  else if st &&& c.errOther != 0#32 then .io
  else .noError

/-- The error code of a classification (R96). -/
def ErrClass.code (c : Cfg) : ErrClass → BitVec 4
  | .noError => eNone
  | .timeout => c.err.timeout
  | .dataIntegrity => c.err.dataIntegrity
  | .io => c.err.io

/-- A classified error other than a timeout ends the batch (R161). -/
def ErrClass.aborts : ErrClass → Bool
  | .noError | .timeout => false
  | .dataIntegrity | .io => true

/-- The direction's ready flag in `STATUS2`: receive-ready for a read transfer, transmit-not-full for a
write transfer (R106, R172). -/
def fifoReady (c : Cfg) (read : Bool) (s2 : Word) : Bool :=
  if read then s2.getLsbD c.s2.rxRdy.val else s2.getLsbD c.s2.txNf.val

end Sys2Proof
end

