-- ==== Sys2Proof/Machine/Operands.lean ====
section
/-! DEFINITION. Operand forms and composed words: the command word (R98, R99), the card-option and clock-control
words of APPLY (R110 to R112, R201 to R205), the byte product (R192), Repack136 (R183), and the numbered
view of the request latch file (R7, R23). -/

namespace Sys2Proof

/-- `x[i]`, latch register number `i` of R23, as a number. -/
def Request.x (r : Request) : Fin 15 → Nat
  | 0 => r.opc.toNat
  | 1 => r.arg.toNat
  | 2 => r.rk.toNat
  | 3 => r.resp0.toNat
  | 4 => r.resp1.toNat
  | 5 => r.resp2.toNat
  | 6 => r.resp3.toNat
  | 7 => r.err.toNat
  | 8 => r.hasData.toNat
  | 9 => r.dir.toNat
  | 10 => r.blksz.toNat
  | 11 => r.blocks.toNat
  | 12 => r.nseg
  | 13 => r.bytes.toNat
  | 14 => r.derr.toNat

/-- What an expected-response-kind code means (R94). -/
inductive RespKind
  | none | r32 | r136 | r32b | unrecognised
  deriving DecidableEq, Repr

/-- The kind a 3-bit code names; codes of no kind are unrecognised, not illegal (R94). -/
def respKind (c : Cfg) (rk : BitVec 3) : RespKind :=
  if rk = c.rk.none then .none
  else if rk = c.rk.r32 then .r32
  else if rk = c.rk.r136 then .r136
  else if rk = c.rk.r32b then .r32b
  else .unrecognised

/-- The response-type control bits (R98, R135); none for an unrecognised kind (R136). -/
def respBits (c : Cfg) (rk : BitVec 3) : Half :=
  match respKind c rk with
  | .none => c.cw.respNone
  | .r32 => c.cw.respR1
  | .r136 => c.cw.respR2
  | .r32b => c.cw.respR1b
  | .unrecognised => 0#16

/-- The command word `cw` (R99). -/
def commandWord (c : Cfg) (r : Request) : Half :=
  r.opc
    ||| respBits c r.rk
    ||| (if r.opc = c.opc.sdioDirect ∨ r.opc = c.opc.sdioExt then c.cw.security else 0#16)
    ||| (if r.opc = c.opc.app then c.cw.app else 0#16)
    ||| (if r.hasData then c.cw.data else 0#16)
    ||| (if r.hasData ∧ 1 < r.blocks.toNat then c.cw.multi else 0#16)
    ||| (if r.hasData ∧ r.dir then c.cw.read else 0#16)

/-- The card-option word of a bus width; none for an unrecognised width (R112, R201). -/
def optWord (c : Cfg) (width : BitVec 8) : Option Half :=
  if width = 1#8 then some (c.opt.defaults ||| c.opt.w1)
  else if width = 4#8 then some (c.opt.defaults ||| c.opt.w4)
  else none

/-- The least power of two not below `n` (R111, R203). -/
def pow2ceil (n : Nat) : Nat := if n ≤ 1 then 1 else 2 ^ (Nat.log2 (n - 1) + 1)

/-- The divider register code of a nonzero clock request (R111, R203); none where the code does not fit
`CLK_CODE` (R111, U8). A divider of at most 1 has the code `CLK_CODE_NODIV`. -/
def clockCode (c : Cfg) (clockHz : Word) : Option Half :=
  let divider := c.srcClk / clockHz.toNat
  if divider ≤ 1 then some c.clk.codeNoDiv
  else if pow2ceil divider / 4 < 2 ^ c.clk.codeBits then some (BitVec.ofNat 16 (pow2ceil divider / 4))
  else none

/-- The clock-control word (R202 to R205); none for a clock request outside APPLY's admitted inputs,
whatever `power_off` is (U8). -/
def clkWord (c : Cfg) (clockHz : Word) (powerOff : Bool) : Option Half :=
  if clockHz = 0#32 then some c.clk.off
  else (clockCode c clockHz).map fun code =>
    if powerOff then c.clk.off
    else code ||| c.clk.pinEn ||| (if c.hsThreshold ≤ clockHz.toNat then c.clk.freeze else 0#16)

/-- `D_BLOCKS * D_BLKSZ` at 32 bits (R192). -/
def byteProduct (r : Request) : Word := r.blocks.setWidth 32 * r.blksz.setWidth 32

/-- `Repack136` (R183). -/
def repack136 (c : Cfg) (h0 h1 h2 h3 : Word) : Word × Word × Word × Word :=
  match c.repack with
  | .conventional => (h3 <<< 8 ||| h2 >>> 24, h2 <<< 8 ||| h1 >>> 24, h1 <<< 8 ||| h0 >>> 24, h0 <<< 8)
  | .other => Config.openRepack h0 h1 h2 h3

end Sys2Proof
end

