-- ==== Sys2Proof/Machine/Admission.lean ====
section
/-! DEFINITION. What the upstream port admits: the well-formedness of a request descriptor, clause by clause (R28,
with D25 and U5), and of the operands of APPLY (U8). -/

namespace Sys2Proof

/-- Why a request descriptor is not well formed (R28). -/
inductive RequestDefect
  /-- the opcode does not fit `W_OPC` (R28.3, U5) -/
  | opcode
  /-- the argument does not fit `W_ARG` (R93) -/
  | argument
  /-- block size or count does not fit `W_BLK` (R93) -/
  | blockWidth
  /-- `cmd_error` is not 0 (R28.1) -/
  | cmdError
  /-- `data_error` is not 0 (R28.1) -/
  | dataError
  /-- `bytes_xfered` is not 0 (R28.1) -/
  | bytes
  /-- `D_BLKSZ` below 4 or not a multiple of 4 (R28.2) -/
  | blockSize
  /-- `D_BLOCKS` is 0 (R28.2) -/
  | blockCount
  /-- no segment, or more than `NSEG_MAX` (R28.2) -/
  | segmentCount
  /-- a segment's offset or length is not a multiple of 4 (R28.2) -/
  | segmentAlignment
  /-- the segment lengths do not sum to `D_BLOCKS * D_BLKSZ` (R28.2) -/
  | segmentTotal
  /-- a segment's offset plus length does not fit 32 bits (R208, D25) -/
  | segmentRange
  /-- two segments of one handle overlap (R255, D25, U5) -/
  | segmentOverlap
  deriving DecidableEq, Repr

/-- The number of bytes a segment list describes. -/
def totalLen (segs : List Segment) : Nat := (segs.map fun g => g.len.toNat).sum

/-- Two segments share no byte: different handles name disjoint memory (R255), and one handle's ranges
are disjoint. -/
def Segment.disjoint (a b : Segment) : Bool :=
  a.handle != b.handle || a.len == 0#32 || b.len == 0#32
    || decide (a.off.toNat + a.len.toNat ≤ b.off.toNat) || decide (b.off.toNat + b.len.toNat ≤ a.off.toNat)

/-- No two segments of the list share a byte (R255, D25). -/
def segmentsDisjoint : List Segment → Bool
  | [] => true
  | g :: rest => rest.all g.disjoint && segmentsDisjoint rest

/-- Offset and length are multiples of 4 (R28.2). -/
def Segment.aligned (g : Segment) : Bool := g.off.toNat % 4 == 0 && g.len.toNat % 4 == 0

/-- Offset plus length fits 32 bits (R208). -/
def Segment.inRange (g : Segment) : Bool := decide (g.off.toNat + g.len.toNat < 2 ^ 32)

/-- The first clause on the DataTransfer that fails (R28.2, with D25 and U5). -/
def transferDefect (c : Cfg) (r : Request) : Option RequestDefect :=
  if r.blksz.toNat < 4 ∨ r.blksz.toNat % 4 ≠ 0 then some .blockSize
  else if r.blocks = 0#16 then some .blockCount
  else if r.nseg = 0 ∨ c.nsegMax < r.nseg then some .segmentCount
  else if !r.segs.all Segment.aligned then some .segmentAlignment
  else if totalLen r.segs ≠ r.blocks.toNat * r.blksz.toNat then some .segmentTotal
  else if !r.segs.all Segment.inRange then some .segmentRange
  else if !segmentsDisjoint r.segs then some .segmentOverlap
  else none

/-- The first clause of `WF(req)` that fails; none for a well-formed request (R28). Each number fits its
latch register (R28.3, R93); clause 4 holds by the width of the kind port, clause 5 by the record having
a command. The segment count is tested with data only, as R28.2 has it: that a descriptor without data is
admitted and latched with a table of any length, although R23 gives `D_NSEG` the values 0 to `NSEG_MAX`,
is the model's choice (log 13). -/
def requestDefect (c : Cfg) (r : Request) : Option RequestDefect :=
  if 2 ^ c.width.opc ≤ r.opc.toNat then some .opcode
  else if 2 ^ c.width.arg ≤ r.arg.toNat then some .argument
  else if 2 ^ c.width.blk ≤ r.blksz.toNat ∨ 2 ^ c.width.blk ≤ r.blocks.toNat then some .blockWidth
  else if r.err ≠ eNone then some .cmdError
  else if r.derr ≠ eNone then some .dataError
  else if r.bytes ≠ 0#32 then some .bytes
  else if r.hasData then transferDefect c r
  else none

/-- `WF(req)` (R28). -/
def Request.wellFormed (c : Cfg) (r : Request) : Bool := (requestDefect c r).isNone

/-- APPLY's operands are admitted: the clock request is 0 or its divider code fits, whatever `width` and
`power_off` are (U8). -/
def applyAdmitted (c : Cfg) (clockHz : Word) : Bool := clockHz == 0#32 || (clockCode c clockHz).isSome

end Sys2Proof
end

