-- ==== Sys2Proof/WellFormed.lean ====
section
/-! DEFINITION. Well-formed instructions: the operands are admitted (R28, U8), each SUBMIT row carries the opcode
its dispatch key names (R100), and a sub-handler's selection pattern holds (R92). -/

namespace Sys2Proof

/-- The opcodes that have a SUBMIT row of their own (R100). -/
def Cfg.specialOpcodes (c : Cfg) : List Half :=
  [c.opc.stop, c.opc.sdioDirect, c.opc.sdioExt, c.opc.app]

/-- An instruction the sequencer can be given. -/
def Instr.wellFormed (c : Cfg) : Instr → Bool
  | .attachReset => true
  | .submit req => req.wellFormed c && !c.specialOpcodes.contains req.opc
  | .submitStop req => req.wellFormed c && req.opc == c.opc.stop
  | .submitSec52 req => req.wellFormed c && req.opc == c.opc.sdioDirect
  | .submitSec53 req => req.wellFormed c && req.opc == c.opc.sdioExt
  | .submitApp req => req.wellFormed c && req.opc == c.opc.app
  | .apply clockHz _ _ => applyAdmitted c clockHz
  | .getCd => true
  | .getRo => true
  | .sdioEn _ => true
  | .irq => true
  | .sdioIrq => true
  | .submitNocard req => req.wellFormed c
  | .hotplug => true
  | .errclass st => !hotplugEvent c st
  | .pump => true
  | .respcap st => stBit st c.st.respEnd
  | .dataend st => stBit st c.st.dataEnd
  | .complete e => c.err.codes.contains e
  | .hwreset => true

end Sys2Proof
end

