-- ==== Sys2Proof/Decode.lean ====
section
/-! DEFINITION. Decoding a selection to an instruction, total and rejecting by name (R91, R92, R100, R113), the
encoder from the same tables, and the reading of the opcode table's words. -/

namespace Sys2Proof

/-- Why a selection is rejected. -/
inductive DecodeError
  /-- a `u_op` code of no operation (R113) -/
  | reservedSelect (u : BitVec 4)
  /-- an error code that the sequencer never produces, given to COMPLETE (R96, R113) -/
  | reservedErrorCode (e : BitVec 4)
  /-- bits that have no format of the table -/
  | noFormat
  deriving DecidableEq, Repr

/-- What the decoder answers. -/
inductive Decoded
  /-- the instruction selected -/
  | ok (i : Instr)
  /-- the condition of R92 does not select the sub-handler: the operation goes on without it -/
  | pass
  /-- no instruction, and no step -/
  | reject (e : DecodeError)
  deriving DecidableEq, Repr

/-- The dispatch key `{u_op[3:0], opcode[5:0]}` of a transaction, at the opcode width of `CFG_REF` (R100). The
decoder compares select and opcode apart, which is the same comparison at any width. -/
def Transaction.dispatchKey (t : Transaction) : BitVec 10 := t.select ++ t.ops.req.opc.extractLsb' 0 6

/-- The SUBMIT rows: exact keys first, then every other opcode (R100). -/
def decodeSubmit (c : Cfg) (req : Request) : Instr :=
  if req.opc = c.opc.stop then .submitStop req
  else if req.opc = c.opc.sdioDirect then .submitSec52 req
  else if req.opc = c.opc.sdioExt then .submitSec53 req
  else if req.opc = c.opc.app then .submitApp req
  else .submit req

/-- One port transaction (R91): the ports the operation does not have are ignored. -/
def decodePort (c : Cfg) (t : Transaction) : Decoded :=
  if t.select = c.sel.attachReset then .ok .attachReset
  else if t.select = c.sel.submit then .ok (decodeSubmit c t.ops.req)
  else if t.select = c.sel.apply then .ok (.apply t.ops.clockHz t.ops.width t.ops.powerOff)
  else if t.select = c.sel.getCd then .ok .getCd
  else if t.select = c.sel.getRo then .ok .getRo
  else if t.select = c.sel.sdioEn then .ok (.sdioEn t.ops.en)
  else if t.select = c.sel.irq then .ok .irq
  else if t.select = c.sel.sdioIrq then .ok .sdioIrq
  else .reject (.reservedSelect t.select)

/-- A sub-handler of IRQ selected by the snapshot (R92). -/
def decodeStage (c : Cfg) (g : Stage) (st : Word) : Decoded :=
  match g with
  | .hotplug => if hotplugEvent c st then .ok .hotplug else .pass
  | .errclass => if hotplugEvent c st then .pass else .ok (.errclass st)
  | .respcap => if stBit st c.st.respEnd then .ok (.respcap st) else .pass
  | .dataend => if stBit st c.st.dataEnd then .ok (.dataend st) else .pass

/-- A call inside an operation in progress (R92). PUMP is always attempted: what its own `STATUS2` read
shows is for PUMP to test. -/
def decodeCall (c : Cfg) : Call → Decoded
  | .presence st req => if stBit st c.st.present then .pass else .ok (.submitNocard req)
  | .stage g st => decodeStage c g st
  | .ready _ => .ok .pump
  | .complete e => if c.err.codes.contains e then .ok (.complete e) else .reject (.reservedErrorCode e)
  | .hwreset => .ok .hwreset
  | .unformatted _ _ => .reject .noFormat

/-- The decoder: total on every selection. -/
def decode (c : Cfg) : Selection → Decoded
  | .port t => decodePort c t
  | .call k => decodeCall c k

/-- A descriptor whose ports all carry 0. -/
def Request.zero : Request where
  opc := 0
  arg := 0
  rk := 0
  resp0 := 0
  resp1 := 0
  resp2 := 0
  resp3 := 0
  err := 0
  hasData := false
  dir := false
  blksz := 0
  blocks := 0
  segs := []
  bytes := 0
  derr := 0

/-- Operand ports that all carry 0. -/
def Operands.zero : Operands where
  req := Request.zero
  clockHz := 0
  width := 0
  powerOff := false
  en := false

/-- The transaction of an operation that has no operand port; the ignored ports carry 0. -/
def selectOnly (u : BitVec 4) : Selection := .port { select := u, ops := Operands.zero }

/-- The transaction of a SUBMIT (R93). -/
def encodeSubmit (c : Cfg) (req : Request) : Selection :=
  .port { select := c.sel.submit, ops := { Operands.zero with req := req } }

/-- The encoder: the selection that stands for an instruction (R91, R92, R100). -/
def encode (c : Cfg) : Instr → Selection
  | .attachReset => selectOnly c.sel.attachReset
  | .submit req => encodeSubmit c req
  | .submitStop req => encodeSubmit c req
  | .submitSec52 req => encodeSubmit c req
  | .submitSec53 req => encodeSubmit c req
  | .submitApp req => encodeSubmit c req
  | .apply clockHz width powerOff =>
    .port { select := c.sel.apply,
            ops := { Operands.zero with clockHz := clockHz, width := width, powerOff := powerOff } }
  | .getCd => selectOnly c.sel.getCd
  | .getRo => selectOnly c.sel.getRo
  | .sdioEn en => .port { select := c.sel.sdioEn, ops := { Operands.zero with en := en } }
  | .irq => selectOnly c.sel.irq
  | .sdioIrq => selectOnly c.sel.sdioIrq
  | .submitNocard req => .call (.presence 0#32 req)
  | .hotplug => .call (.stage .hotplug (bitMask c.st.remove))
  | .errclass st => .call (.stage .errclass st)
  | .pump => .call (.ready (1#16 <<< c.s2.rxRdy.val))
  | .respcap st => .call (.stage .respcap st)
  | .dataend st => .call (.stage .dataend st)
  | .complete e => .call (.complete e)
  | .hwreset => .call .hwreset

/-- Who selects an instruction (R238, R242). -/
inductive Agent
  /-- the stack, or the attach glue for ATTACH_RESET, on the upstream port -/
  | stack
  /-- the primary interrupt line -/
  | primaryLine
  /-- the secondary (SDIO) interrupt line -/
  | sdioLine
  /-- the sequencer itself, inside an operation (R92) -/
  | sequencer
  deriving DecidableEq, Repr

/-- The agent that selects an instruction (R91, R92, R238). -/
def Instr.agent : Instr → Agent
  | .attachReset | .submit _ | .submitStop _ | .submitSec52 _ | .submitSec53 _ | .submitApp _
  | .apply _ _ _ | .getCd | .getRo | .sdioEn _ => .stack
  | .irq => .primaryLine
  | .sdioIrq => .sdioLine
  | .submitNocard _ | .hotplug | .errclass _ | .pump | .respcap _ | .dataend _ | .complete _ | .hwreset =>
    .sequencer

/-- Which row of the table a bare 32-bit `ST` word is read as. The rows overlap, because a batch may
select several sub-handlers; the word is read as the first one in the precedence of R232 that it gives
something to do, and a word that gives none of them anything is SUBMIT.NOCARD's if `ST_PRESENT` is
clear (log 16, DESIGN CHOICE). -/
def statusCall (c : Cfg) (st : Word) : Call :=
  if hotplugEvent c st then .stage .hotplug st
  else if st &&& c.errGroup != 0#32 then .stage .errclass st
  else if stBit st c.st.respEnd then .stage .respcap st
  else if stBit st c.st.dataEnd then .stage .dataend st
  else if stBit st c.st.present then .stage .errclass st
  else .presence st Request.zero

/-- The transaction of a 10-bit dispatch key of `CFG_REF`, every other port 0 (R100). -/
def keyTransaction (w : Nat) : Transaction where
  select := BitVec.ofNat 4 (w / 64)
  ops := { Operands.zero with req := { Request.zero with opc := BitVec.ofNat 16 (w % 64) } }

/-- A word of the opcode table as a selection: by its length in bits an `OP` key (10 bits), an `ST` word
(32), an `S2` word (16) or a `CALL` word (4, or none), with every operand port 0 (log 16). -/
def tableSelection (nbits w : Nat) : Selection :=
  if nbits = 0 then .call .hwreset
  else if nbits ≤ 8 then
    if w < 16 then .call (.complete (BitVec.ofNat 4 w)) else .call (.unformatted nbits w)
  else if nbits ≤ 16 then
    if w < 1024 then .port (keyTransaction w)
    else if w < 65536 then .call (.ready (BitVec.ofNat 16 w))
    else .call (.unformatted nbits w)
  else if nbits ≤ 32 ∧ w < 2 ^ 32 then .call (statusCall Cfg.ref (BitVec.ofNat 32 w))
  else .call (.unformatted nbits w)

/-- The instruction the decoder reads from a word of the opcode table, in `CFG_REF`. -/
def decodeTableWord (nbits w : Nat) : Option Instr :=
  match decode Cfg.ref (tableSelection nbits w) with
  | .ok i => some i
  | .pass => none
  | .reject _ => none

end Sys2Proof
end

