-- ==== Sys2Proof/Machine/State.lean ====
section
/-! DEFINITION. The sequencer's state as plain data: the in-flight slot, the request latch file, the scatter cursor,
the other registers (R20 to R34), the controller's registers (R35 to R46), scatter memory (R63), the
selections presented to it, and the machine right after reset (R47). -/

namespace Sys2Proof.Machine

/-- Scatter memory: the bytes that differ from what an unlisted byte reads as, by rising key (log 12). -/
abbrev Memory := List Host.Cell

/-- The one fault of the sequencer (R227). -/
inductive Fault
  /-- Recorded in `FAULT` by SUBMIT while a request is in flight (R131); raised by `step` from a state
  with `FAULT = 1`, whose further behaviour the spec does not give (R31, R267). Safe: the model stops. -/
  | busySubmit
  deriving DecidableEq, Repr

/-- Why a selection gets no step. All are safe: the model stops where the spec admits no step. -/
inductive Refusal
  /-- Raised by `exec` for an instruction without a meaning yet. -/
  | notModelled (mnemonic : String)
  /-- Raised by `step` for a reserved `u_op` code: "refused at the port" (R113, U9). -/
  | reservedSelect (u : BitVec 4)
  /-- Raised by `step` for COMPLETE with a code that is never produced (R96, R113). -/
  | reservedErrorCode (e : BitVec 4)
  /-- Raised by `step` for bits of no format. -/
  | noFormat
  /-- Raised by every SUBMIT row and by SUBMIT.NOCARD for a descriptor that is not well formed: "refused at
  the upstream port" (R28, R113, U5). -/
  | illFormedRequest (d : RequestDefect)
  /-- Raised by APPLY for a clock request whose divider code does not fit `CLK_CODE` (R111, U8). -/
  | clockOutOfRange
  /-- Raised by `step` for ATTACH_RESET after the first step of a run (R251, U16). -/
  | attachResetMidRun
  deriving DecidableEq, Repr

/-- `LOCK` (R32). -/
inductive Lock
  | free | held
  deriving DecidableEq, Repr

/-- The kinds of diagnostic, each with its payload (R97). -/
inductive LogKind
  /-- `L_BUSY_SUBMIT` -/
  | busySubmit
  /-- `L_CONFIG_RK`, payload `Q_RK` -/
  | configRk (rk : BitVec 3)
  /-- `L_CONFIG_WIDTH`, payload `width` -/
  | configWidth (width : BitVec 8)
  /-- `L_IOERR_BITS`, payload `st & ERR_GROUP` -/
  | ioErrBits (bits : Word)
  /-- `L_DESYNC_RESP` -/
  | desyncResp
  /-- `L_DESYNC_DEND` -/
  | desyncDend
  deriving DecidableEq, Repr

/-- The DataTransfer part of a completion snapshot (R116, R24). -/
structure DataSnapshot where
  dir    : Bool
  blksz  : Half
  blocks : Half
  segs   : List Segment
  bytes  : Word
  err    : BitVec 4
  deriving DecidableEq, Repr

/-- The snapshot `N_DONE` carries (R116, R197): the command's registers, and the DataTransfer's only if
`Q_HASDATA = 1`. -/
structure Snapshot where
  opc   : Half
  arg   : Word
  rk    : BitVec 3
  resp0 : Word
  resp1 : Word
  resp2 : Word
  resp3 : Word
  err   : BitVec 4
  data  : Option DataSnapshot
  deriving DecidableEq, Repr

/-- A byte address of scatter memory: a buffer handle and a byte offset in that buffer (R9, R63). -/
structure MemAddr where
  handle : Nat
  off    : Word
  deriving DecidableEq, Repr

/-- One event of the output event history (R10, R34). -/
inductive Event
  /-- `R <REG> = v`: a register read and the value answered -/
  | regRead (r : RegName) (v : Word)
  /-- `W <REG> <- v`: a register write -/
  | regWrite (r : RegName) (v : Word)
  /-- `FR = w`: a FIFO read and the word answered -/
  | fifoRead (w : Word)
  /-- `FW <- w`: a FIFO write -/
  | fifoWrite (w : Word)
  /-- `MR a = w`: a 4-byte scatter-memory read -/
  | memRead (a : MemAddr) (w : Word)
  /-- `MW a <- w`: a 4-byte scatter-memory write -/
  | memWrite (a : MemAddr) (w : Word)
  /-- `HWRESET` -/
  | hwReset
  /-- `DELAY T` -/
  | delay (t : DelayName)
  /-- `N_DONE` -/
  | done (snap : Snapshot)
  /-- `N_CARD` -/
  | card
  /-- `N_SDIO` -/
  | sdio
  /-- `RET v` -/
  | ret (v : Bool)
  /-- `LOG kind payload` -/
  | log (k : LogKind)
  deriving DecidableEq, Repr

/-- The controller's registers (R35), each holding what the sequencer last saw or wrote there (log 8), at
the register's width (R8) in a word of 32 bits; the widths are configuration (R61; log 28).
They are the controller's, not the sequencer's: a read is answered afresh and never from here (R78). -/
structure Ctl where
  /-- `CMD` (R36) -/
  cmd       : Word
  /-- `ARG` (R37) -/
  arg       : Word
  /-- `STOP` (R38) -/
  stop      : Word
  /-- `BLKCOUNT` (R39) -/
  blkCount  : Word
  /-- `RESP0` to `RESP3` (R40) -/
  resp0     : Word
  resp1     : Word
  resp2     : Word
  resp3     : Word
  /-- `IRQ_STATUS` (R41) -/
  irqStatus : Word
  /-- `IRQ_MASK` (R42) -/
  irqMask   : Word
  /-- `CLKCTL` (R44) -/
  clkCtl    : Word
  /-- `BLKLEN` (R39) -/
  blkLen    : Word
  /-- `OPT` (R45) -/
  opt       : Word
  /-- `STATUS2` (R43) -/
  status2   : Word
  /-- `FIFO`, the word last at the port (R46, log 25) -/
  fifo      : Word
  deriving DecidableEq, Repr

/-- The state of the machine. -/
structure State where
  /-- `CFG` with the handles fixed at attach (R5, R33); no operation writes it (log 1) -/
  cfg     : Cfg
  /-- `IF_V` (R21) -/
  ifV     : Bool
  /-- the request latch file `x[0..14]` and the segment table (R23, R25) -/
  q       : Request
  /-- `CUR_V`, `CUR_I`, `CUR_O` (R26) -/
  curV    : Bool
  curI    : Nat
  curO    : Word
  /-- `SDIO_EN` (R30) -/
  sdioEn  : Bool
  /-- `FAULT` with its reason; `none` is `FAULT = 0` (R31) -/
  fault   : Option Fault
  /-- `LOCK` (R32) -/
  lock    : Lock
  /-- the output event history, oldest first (R34) -/
  history : List Event
  /-- the controller's registers (R35) -/
  ctl     : Ctl
  /-- scatter memory (R63) -/
  mem     : Memory
  /-- what is presented at the upstream port and by the interrupt lines, next first (R90, R228, R229; log 2) -/
  inputs  : List Transaction
  /-- the calls that are left of the operation in progress, next first: sub-handlers and helpers run only
  inside an operation, which holds the lock (R92; log 15) -/
  calls   : List Call
  /-- the controller's coming answers to reads, next first (R78; log 3) -/
  answers : List Word
  /-- how many free values have been drawn (log 3) -/
  draws   : Nat
  /-- no operation has run yet (R251; log 5) -/
  fresh   : Bool
  deriving DecidableEq, Repr

/-- Every controller register at 0: DESIGN CHOICE, the spec leaves them to the controller (R47; log 8). -/
def Ctl.zero : Ctl where
  cmd := 0
  arg := 0
  stop := 0
  blkCount := 0
  resp0 := 0
  resp1 := 0
  resp2 := 0
  resp3 := 0
  irqStatus := 0
  irqMask := 0
  clkCtl := 0
  blkLen := 0
  opt := 0
  status2 := 0
  fifo := 0

/-- The machine right after reset (R47): slot empty, no cursor, SDIO disabled, no fault, lock free, empty
history. The latch file, the cursor's position and the controller's registers, which R47 leaves
unspecified, are 0 (DESIGN CHOICE, log 7 and 8). -/
def State.reset : State where
  cfg := Cfg.ref
  ifV := false
  q := Request.zero
  curV := false
  curI := 0
  curO := 0
  sdioEn := false
  fault := none
  lock := .free
  history := []
  ctl := Ctl.zero
  mem := []
  inputs := []
  calls := []
  answers := []
  draws := 0
  fresh := true

end Sys2Proof.Machine
end

