-- ==== Sys2Proof/Machine/Memory.lean ====
section
/-! DEFINITION. Scatter memory (R9, R63, R66): bytes by (handle, offset), 4-byte words little-endian. -/

namespace Sys2Proof.Machine

/-- What a byte that no one has written reads as: DESIGN CHOICE, the spec leaves scatter memory to the
stack (R47; log 12). -/
def unlistedByte : Byte := 0#8

/-- The place of a byte in the list: distinct handles name disjoint memory (R255), offsets are 32 bits. -/
def MemAddr.key (a : MemAddr) : Nat := a.handle * 2 ^ 32 + a.off.toNat

/-- The address `n` bytes further on. -/
def MemAddr.plus (a : MemAddr) (n : Nat) : MemAddr := { a with off := a.off + BitVec.ofNat 32 n }

/-- One byte of memory. -/
def Memory.read : Memory → Nat → Byte
  | [], _ => unlistedByte
  | (k, v) :: rest, a => if k = a then v else Memory.read rest a

/-- A cell put before a list, unless it holds what an unlisted byte reads as. -/
def Memory.consCell (a : Nat) (b : Byte) (m : Memory) : Memory :=
  if b = unlistedByte then m else (a, b) :: m

/-- Memory with one byte stored, in the canonical form again. -/
def Memory.write : Memory → Nat → Byte → Memory
  | [], a, b => Memory.consCell a b []
  | (k, v) :: rest, a, b =>
    if a < k then Memory.consCell a b ((k, v) :: rest)
    else if a = k then Memory.consCell a b rest
    else (k, v) :: Memory.write rest a b

/-- The canonical form: keys strictly rising, no entry equal to what an unlisted byte reads as. -/
abbrev Memory.wf (m : Memory) : Prop :=
  m.Pairwise (fun a b => a.1 < b.1) ∧ ∀ c ∈ m, c.2 ≠ unlistedByte

/-- The byte at an address. -/
def Memory.byteAt (m : Memory) (a : MemAddr) : Byte := Memory.read m a.key

/-- `MemRead(a, 4)`: little-endian (R66). -/
def Memory.readWord (m : Memory) (a : MemAddr) : Word :=
  m.byteAt (a.plus 3) ++ m.byteAt (a.plus 2) ++ m.byteAt (a.plus 1) ++ m.byteAt (a.plus 0)

/-- `MemWrite(a, 4, w)`: little-endian (R66). -/
def Memory.writeWord (m : Memory) (a : MemAddr) (w : Word) : Memory :=
  let m0 := Memory.write m (a.plus 0).key (w.extractLsb' 0 8)
  let m1 := Memory.write m0 (a.plus 1).key (w.extractLsb' 8 8)
  let m2 := Memory.write m1 (a.plus 2).key (w.extractLsb' 16 8)
  Memory.write m2 (a.plus 3).key (w.extractLsb' 24 8)

end Sys2Proof.Machine
end

