-- ==== Sys2Proof/Machine/Ops.lean ====
section
/-! DEFINITION. The primitives every operation is written over: the lock (R32), events (R10), register and FIFO
accesses (R8, R78), memory accesses (R9), the abstract reset (R156), raising the fault (R11), and entry
to and return from an operation (R234 to R236). -/

namespace Sys2Proof.Machine

/-- The lock is taken at the start of every operation (R32, R234, R235): nothing is saved, no mode changes. -/
def acquire (s : State) : State := { s with lock := .held }

/-- The lock is released on every exit path (R32, R236): nothing is restored. -/
def release (s : State) : State := { s with lock := .free }

/-- `emit E` (R10). -/
def emit (e : Event) (s : State) : State := { s with history := s.history ++ [e] }

/-- `raise F` (R11): the fault is recorded in the sticky `FAULT` register (R31). -/
def raise (f : Fault) (s : State) : State := { s with fault := some f }

/-- The controller's answer to the next read: the input script's next word, or a free value once the
script is used up (R78; log 3). -/
def nextAnswer (s : State) : Word := s.answers.headD (Config.freeWord s.draws)

/-- The draw is used up. -/
def consumeAnswer (s : State) : State :=
  { s with answers := s.answers.tail, draws := if s.answers.isEmpty then s.draws + 1 else s.draws }

/-- The width in bits of a register of the block (R35, R61). -/
def regWidth (c : Cfg) (r : RegName) : Nat := (c.reg.place r).width

/-- The byte offset of a register in the register block (R35, R61). -/
def regOffset (c : Cfg) (r : RegName) : Nat := (c.reg.place r).offset

/-- A value truncated to a register's width (R8), in a word of 32 bits. -/
def truncToReg (c : Cfg) (r : RegName) (v : Word) : Word := (v.setWidth (regWidth c r)).setWidth 32

/-- The register file with a register at a value. -/
def Ctl.set (k : Ctl) (r : RegName) (v : Word) : Ctl :=
  match r with
  | .cmd => { k with cmd := v }
  | .arg => { k with arg := v }
  | .stop => { k with stop := v }
  | .blkCount => { k with blkCount := v }
  | .resp0 => { k with resp0 := v }
  | .resp1 => { k with resp1 := v }
  | .resp2 => { k with resp2 := v }
  | .resp3 => { k with resp3 := v }
  | .irqStatus => { k with irqStatus := v }
  | .irqMask => { k with irqMask := v }
  | .clkCtl => { k with clkCtl := v }
  | .blkLen => { k with blkLen := v }
  | .opt => { k with opt := v }
  | .status2 => { k with status2 := v }

/-- What a write does to the register file: `IRQ_STATUS` loses the event bits the write names and keeps
every other bit (R41); `RESP0..3` and `STATUS2` are read-only (R40, R43); the others take the value. -/
def Ctl.accept (c : Cfg) (k : Ctl) (r : RegName) (v : Word) : Ctl :=
  match r with
  | .irqStatus => { k with irqStatus := k.irqStatus &&& ~~~(v &&& c.irqKnown) }
  | .resp0 | .resp1 | .resp2 | .resp3 | .status2 => k
  | .cmd | .arg | .stop | .blkCount | .irqMask | .clkCtl | .blkLen | .opt => k.set r v

/-- The value `RegRead(r)` gives: a fresh answer of the controller at the register's width (R8, R78). -/
def regValue (r : RegName) (s : State) : Word := truncToReg s.cfg r (nextAnswer s)

/-- The state after `RegRead(r)`. A read has no side effect of the sequencer's; the register is seen to
hold the answer (R69, R78). -/
def regRead (r : RegName) (s : State) : State :=
  emit (.regRead r (regValue r s)) { consumeAnswer s with ctl := s.ctl.set r (regValue r s) }

/-- `RegWrite(r, v)`: the value is truncated to the register's width (R8). -/
def regWrite (r : RegName) (v : Word) (s : State) : State :=
  emit (.regWrite r (truncToReg s.cfg r v)) { s with ctl := s.ctl.accept s.cfg r (truncToReg s.cfg r v) }

/-- The state after `FifoRead()` (R8, R46), whose word is `nextAnswer s`. -/
def fifoRead (s : State) : State :=
  emit (.fifoRead (nextAnswer s)) { consumeAnswer s with ctl := { s.ctl with fifo := nextAnswer s } }

/-- `FifoWrite(w)` (R8, R46). -/
def fifoWrite (w : Word) (s : State) : State :=
  emit (.fifoWrite w) { s with ctl := { s.ctl with fifo := w } }

/-- The state after `MemRead(a, 4)` (R9), whose word is `s.mem.readWord a`. -/
def memRead (a : MemAddr) (s : State) : State := emit (.memRead a (s.mem.readWord a)) s

/-- `MemWrite(a, 4, w)` (R9). -/
def memWrite (a : MemAddr) (w : Word) (s : State) : State :=
  emit (.memWrite a w) { s with mem := s.mem.writeWord a w }

/-- The register file `HwReset` leaves: unspecified, every register a free word at its width (R156, U2;
log 9). -/
def freeCtl (c : Cfg) (n : Nat) : Ctl where
  cmd := truncToReg c .cmd (Config.freeWord n)
  arg := truncToReg c .arg (Config.freeWord (n + 1))
  stop := truncToReg c .stop (Config.freeWord (n + 2))
  blkCount := truncToReg c .blkCount (Config.freeWord (n + 3))
  resp0 := truncToReg c .resp0 (Config.freeWord (n + 4))
  resp1 := truncToReg c .resp1 (Config.freeWord (n + 5))
  resp2 := truncToReg c .resp2 (Config.freeWord (n + 6))
  resp3 := truncToReg c .resp3 (Config.freeWord (n + 7))
  irqStatus := truncToReg c .irqStatus (Config.freeWord (n + 8))
  irqMask := truncToReg c .irqMask (Config.freeWord (n + 9))
  clkCtl := truncToReg c .clkCtl (Config.freeWord (n + 10))
  blkLen := truncToReg c .blkLen (Config.freeWord (n + 11))
  opt := truncToReg c .opt (Config.freeWord (n + 12))
  status2 := truncToReg c .status2 (Config.freeWord (n + 13))
  fifo := Config.freeWord (n + 14)

/-- `HwReset()` (R8, R156): the sequencer's state is as before, the controller's is unspecified. -/
def hwReset (s : State) : State :=
  emit .hwReset { s with ctl := freeCtl s.cfg s.draws, draws := s.draws + 15 }

/-- The snapshot of a request (R116, R197). -/
def snapshotOf (r : Request) : Snapshot where
  opc := r.opc
  arg := r.arg
  rk := r.rk
  resp0 := r.resp0
  resp1 := r.resp1
  resp2 := r.resp2
  resp3 := r.resp3
  err := r.err
  data := if r.hasData then
      some { dir := r.dir, blksz := r.blksz, blocks := r.blocks, segs := r.segs, bytes := r.bytes, err := r.derr }
    else none

/-- `Q_ERR <- e` where an error is supplied (R160, R196). -/
def attachError (e : BitVec 4) (s : State) : State :=
  if e = eNone then s else { s with q := { s.q with err := e } }

/-- COMPLETE (R196): a no-op with the slot empty; else attach, empty the slot, discard the cursor, notify.
The pseudocode writes `Q_ERR`, `IF_V` and `CUR_V` and nothing else, so the rest of the latch file and the
cursor's position `CUR_I`, `CUR_O` keep their values, although U14 calls both without meaning from here
on (DEDUCED, log 24). -/
def completeOp (e : BitVec 4) (s : State) : State :=
  if s.ifV then
    let s1 := attachError e s
    emit (.done (snapshotOf s1.q)) { s1 with ifV := false, curV := false }
  else s

end Sys2Proof.Machine
end

