-- ==== Sys2Proof/Machine/Apply.lean ====
section
/-! DEFINITION. The bus-parameter setter APPLY (R200 to R209). -/

namespace Sys2Proof.Machine

/-- The writes of APPLY: `CLKCTL`, `OPT`, then the settle delay (R206, R207). -/
def applyWrites (clk opt : Half) (s : State) : State :=
  emit (.delay .tSettle) (regWrite .opt (opt.setWidth 32) (regWrite .clkCtl (clk.setWidth 32) s))

/-- APPLY (R200): a clock request whose divider code does not fit is refused at the port (U8); an
unrecognised width is logged and nothing is written (R201). -/
def execApply (clockHz : Word) (width : BitVec 8) (powerOff : Bool) (s : State) :
    Host.Outcome State Fault Refusal :=
  match clkWord s.cfg clockHz powerOff with
  | none => .refused .clockOutOfRange
  | some clk =>
    match optWord s.cfg width with
    | none => .next (release (emit (.log (.configWidth width)) (acquire s)))
    | some opt => .next (release (applyWrites clk opt (acquire s)))

end Sys2Proof.Machine
end

