-- ==== Sys2Proof/Machine/AttachReset.lean ====
section
/-! DEFINITION. ATTACH_RESET (R250, R251). -/

namespace Sys2Proof.Machine

/-- The latch file ATTACH_RESET leaves: unspecified, every register a free value of its
width (R250, U14; log 6). -/
def freeRequest (w : WidthCfg) (n : Nat) : Request where
  opc := ((Config.freeWord n).setWidth w.opc).setWidth 16
  arg := ((Config.freeWord (n + 1)).setWidth w.arg).setWidth 32
  rk := (Config.freeWord (n + 2)).setWidth 3
  resp0 := Config.freeWord (n + 3)
  resp1 := Config.freeWord (n + 4)
  resp2 := Config.freeWord (n + 5)
  resp3 := Config.freeWord (n + 6)
  err := (Config.freeWord (n + 7)).setWidth 4
  hasData := (Config.freeWord (n + 8)).getLsbD 0
  dir := (Config.freeWord (n + 9)).getLsbD 0
  blksz := ((Config.freeWord (n + 10)).setWidth w.blk).setWidth 16
  blocks := ((Config.freeWord (n + 11)).setWidth w.blk).setWidth 16
  segs := Config.freeSegments (n + 12)
  bytes := Config.freeWord (n + 13)
  derr := (Config.freeWord (n + 14)).setWidth 4

/-- ATTACH_RESET's effect (R250): no access, no event; the controller, the FIFO and scatter memory are
untouched (R251). -/
def attachResetOp (s : State) : State :=
  { s with
    ifV := false
    curV := false
    sdioEn := false
    fault := none
    lock := .free
    history := []
    calls := []
    q := freeRequest s.cfg.width s.draws
    curI := Config.freeIndex (s.draws + 15)
    curO := Config.freeWord (s.draws + 16)
    draws := s.draws + 17 }

/-- ATTACH_RESET (R250). That it is admitted only as the first step of a run is `fetch`'s check (log 5). -/
def execAttachReset (s : State) : Host.Outcome State Fault Refusal := .next (attachResetOp s)

end Sys2Proof.Machine
end

