-- ==== Sys2Proof/Machine/Complete.lean ====
section
/-! DEFINITION. The meaning of COMPLETE (R196 to R199). -/

namespace Sys2Proof.Machine

/-- COMPLETE with an error code (R196). -/
def execComplete (e : BitVec 4) (s : State) : Host.Outcome State Fault Refusal := .next (completeOp e s)

end Sys2Proof.Machine
end

