-- ==== Sys2Proof/Machine/DataEnd.lean ====
section
/-! DEFINITION. Data end DATAEND (R190 to R194). -/

namespace Sys2Proof.Machine

/-- The byte count DATAEND reports (R192): the product, or 0 if an error was already recorded. -/
def reportedBytes (r : Request) : Word := if r.err = eNone ∧ r.derr = eNone then byteProduct r else 0#32

/-- `D_BYTES` set (R192). -/
def recordBytes (s : State) : State := { s with q := { s.q with bytes := reportedBytes s.q } }

/-- The end of an active transfer (R192 to R194): count, automatic stop off, complete with `D_ERR`. -/
def finishTransfer (s : State) : State :=
  let s1 := regWrite .stop 0#32 (recordBytes s)
  completeOp s1.q.derr s1

/-- DATAEND (R190); with no active transfer it is logged and a no-op (R191). -/
def dataendOp (st : Word) (s : State) : State :=
  if stBit st s.cfg.st.dataEnd then
    if s.ifV && s.q.hasData then finishTransfer s else emit (.log .desyncDend) s
  else s

/-- DATAEND on a snapshot (R190). -/
def execDataend (st : Word) (s : State) : Host.Outcome State Fault Refusal := .next (dataendOp st s)

end Sys2Proof.Machine
end

