-- ==== Sys2Proof/Machine/Pump.lean ====
section
/-! DEFINITION. The data pump PUMP (R170 to R178). -/

namespace Sys2Proof.Machine

/-- The advance loop (R173) over the segments from the cursor on: past every fully consumed segment. -/
def advanceFrom : List Segment → Nat → Word → Nat × Word
  | [], i, o => (i, o)
  | g :: rest, i, o => if g.len.toNat ≤ o.toNat then advanceFrom rest (i + 1) 0#32 else (i, o)

/-- The cursor position after the advance loop (R173). -/
def advanced (s : State) : Nat × Word := advanceFrom (s.q.segs.drop s.curI) s.curI s.curO

/-- The cursor is moved to its advanced position (R173, R174). -/
def advanceCursor (s : State) : State := { s with curI := (advanced s).1, curO := (advanced s).2 }

/-- `len`, the length in bytes of a pump cycle in segment `g` (R175). -/
def pumpLen (s : State) (g : Segment) : Nat := min (g.len.toNat - s.curO.toNat) s.q.blksz.toNat

/-- The address of the first byte at the cursor in segment `g` (R63, R175). -/
def pumpAddr (s : State) (g : Segment) : MemAddr := { handle := g.handle, off := g.off + s.curO }

/-- One word between the FIFO port and scatter memory, in the transfer's direction (R175). -/
def moveWord (a : MemAddr) (s : State) : State :=
  if s.q.dir then memWrite a (nextAnswer s) (fifoRead s)
  else fifoWrite (s.mem.readWord a) (memRead a s)

/-- `n` words in ascending address order (R175). -/
def moveWords : Nat → MemAddr → State → State
  | 0, _, s => s
  | n + 1, a, s => moveWords n (a.plus 4) (moveWord a s)

/-- The bytes are marked consumed (R176). -/
def consume (len : Nat) (s : State) : State := { s with curO := BitVec.ofNat 32 (s.curO.toNat + len) }

/-- The transfer from an advanced cursor (R174 to R176): nothing if the list is exhausted. -/
def pumpBlock (s : State) : State :=
  match s.q.segs[s.curI]? with
  | none => s
  | some g => consume (pumpLen s g) (moveWords (pumpLen s g / 4) (pumpAddr s g) s)

/-- PUMP applies: a request with a DataTransfer is in flight (R171). -/
def pumpTriggered (s : State) : Bool := s.ifV && s.q.hasData

/-- The direction's ready flag is set in the `STATUS2` answer (R172). -/
def pumpReady (s : State) : Bool := fifoReady s.cfg s.q.dir (regValue .status2 s)

/-- PUMP (R170). -/
def pumpOp (s : State) : State :=
  if pumpTriggered s then
    if pumpReady s then pumpBlock (advanceCursor (regRead .status2 s)) else regRead .status2 s
  else s

/-- PUMP (R170). -/
def execPump (s : State) : Host.Outcome State Fault Refusal := .next (pumpOp s)

end Sys2Proof.Machine
end

