-- ==== Sys2Proof/Machine/Response.lean ====
section
/-! DEFINITION. Response capture RESPCAP (R180 to R186). -/

namespace Sys2Proof.Machine

/-- `Q_RESP0..3` at four words. -/
def setResp (w : Word × Word × Word × Word) (s : State) : State :=
  { s with q := { s.q with resp0 := w.1, resp1 := w.2.1, resp2 := w.2.2.1, resp3 := w.2.2.2 } }

/-- Short response (R181): `RESP0` into `Q_RESP0`; the other words keep what they hold. -/
def captureShort (s : State) : State :=
  let s1 := regRead .resp0 s
  { s1 with q := { s1.q with resp0 := regValue .resp0 s } }

/-- 136-bit response (R182): the four registers in ascending order, repacked (R183). -/
def captureLong (s : State) : State :=
  let s1 := regRead .resp0 s
  let s2 := regRead .resp1 s1
  let s3 := regRead .resp2 s2
  let s4 := regRead .resp3 s3
  setResp (repack136 s.cfg (regValue .resp0 s) (regValue .resp1 s1) (regValue .resp2 s2) (regValue .resp3 s3)) s4

/-- Unrecognised kind (R184): four unconstrained draws, no register read (log 14). -/
def captureUnknown (s : State) : State :=
  setResp (Config.freeWord s.draws, Config.freeWord (s.draws + 1), Config.freeWord (s.draws + 2),
    Config.freeWord (s.draws + 3)) { s with draws := s.draws + 4 }

/-- The capture by response kind (R180 to R184). -/
def capture (s : State) : State :=
  match respKind s.cfg s.q.rk with
  | .none => s
  | .r32 | .r32b => captureShort s
  | .r136 => captureLong s
  | .unrecognised => captureUnknown s

/-- Completion for a request without data, deferral for one with data (R185). -/
def completeUnlessData (s : State) : State := if s.q.hasData then s else completeOp eNone s

/-- RESPCAP (R180). -/
def respcapOp (st : Word) (s : State) : State :=
  if stBit st s.cfg.st.respEnd then
    if s.ifV then completeUnlessData (capture s) else emit (.log .desyncResp) s
  else s

/-- RESPCAP on a snapshot (R180). -/
def execRespcap (st : Word) (s : State) : Host.Outcome State Fault Refusal := .next (respcapOp st s)

end Sys2Proof.Machine
end

