-- ==== Sys2Proof/Machine/Irq.lean ====
section
/-! DEFINITION. The interrupt handler: IRQ, HOTPLUG, HWRESET, ERRCLASS (R150 to R165). -/

namespace Sys2Proof.Machine

/-- HOTPLUG after its reset: the presence re-read, completion with `E_NOMEDIUM` if the card is gone, and
`N_CARD` (R155). -/
def hotplugTail (s : State) : State :=
  emit .card
    (if stBit (regValue .irqStatus s) s.cfg.st.present then regRead .irqStatus s
     else completeOp s.cfg.err.noMedium (regRead .irqStatus s))

/-- HOTPLUG (R155). -/
def hotplugOp (s : State) : State := hotplugTail (hwReset s)

/-- The raw error bits are logged for a generic I/O error only (R159). -/
def logIoError (st : Word) (s : State) : State :=
  if classify s.cfg st = .io then emit (.log (.ioErrBits (st &&& s.cfg.errGroup))) s else s

/-- ERRCLASS (R159, R160): classify, log, attach. -/
def errclassOp (st : Word) (s : State) : State :=
  attachError ((classify s.cfg st).code s.cfg) (logIoError st s)

/-- The acknowledge write (R152). -/
def acknowledge (st : Word) (s : State) : State := regWrite .irqStatus (ackSet s.cfg st) s

/-- The three handlers attempted in fixed order (R163). -/
def handleInOrder (st : Word) (s : State) : State := dataendOp st (respcapOp st (pumpOp s))

/-- The batch for a request in flight (R159 to R163): an error other than a timeout ends it. -/
def batchForRequest (st : Word) (s : State) : State :=
  if (classify s.cfg st).aborts then errclassOp st s else handleInOrder st (errclassOp st s)

/-- The batch after the acknowledge (R154 to R158). -/
def dispatchBatch (st : Word) (s : State) : State :=
  if hotplugEvent s.cfg st then hotplugOp s
  else if s.ifV then batchForRequest st s
  else s

/-- One interrupt batch (R150), under the lock: snapshot, acknowledge, dispatch. -/
def irqBody (s : State) : State :=
  let st := regValue .irqStatus s
  dispatchBatch st (acknowledge st (regRead .irqStatus s))

/-- IRQ (R150). -/
def execIrq (s : State) : Host.Outcome State Fault Refusal := .next (release (irqBody (acquire s)))

/-- HOTPLUG, called inside IRQ (R92, R155). -/
def execHotplug (s : State) : Host.Outcome State Fault Refusal := .next (hotplugOp s)

/-- HWRESET, called inside HOTPLUG (R92, R156). -/
def execHwreset (s : State) : Host.Outcome State Fault Refusal := .next (hwReset s)

/-- ERRCLASS, called inside IRQ: it is selected with a request in flight and no hotplug event (R92), and
does nothing otherwise (log 15). -/
def execErrclass (st : Word) (s : State) : Host.Outcome State Fault Refusal :=
  .next (if s.ifV && !hotplugEvent s.cfg st then errclassOp st s else s)

end Sys2Proof.Machine
end

