-- ==== Sys2Proof/Machine/Queries.lean ====
section
/-! DEFINITION. The queries and the SDIO relay: GET_CD, GET_RO, SDIO_EN, SDIO_IRQ (R210 to R216). -/

namespace Sys2Proof.Machine

/-- GET_CD (R210). -/
def execGetCd (s : State) : Host.Outcome State Fault Refusal :=
  .next (release (emit (.ret (stBit (regValue .irqStatus s) s.cfg.st.present)) (regRead .irqStatus (acquire s))))

/-- GET_RO (R212). -/
def execGetRo (s : State) : Host.Outcome State Fault Refusal :=
  .next (release (emit (.ret (stBit (regValue .irqStatus s) s.cfg.st.wp == s.cfg.wpPolarity))
    (regRead .irqStatus (acquire s))))

/-- The SDIO enable bit is written (R214). -/
def setSdioEn (en : Bool) (s : State) : State := { s with sdioEn := en }

/-- SDIO_EN (R214). -/
def execSdioEn (en : Bool) (s : State) : Host.Outcome State Fault Refusal :=
  .next (release (setSdioEn en (acquire s)))

/-- SDIO_IRQ (R215). -/
def execSdioIrq (s : State) : Host.Outcome State Fault Refusal :=
  .next (release (if s.sdioEn then emit .sdio (acquire s) else acquire s))

end Sys2Proof.Machine
end

