-- ==== Sys2Proof/Machine/Submit.lean ====
section
/-! DEFINITION. The request dispatcher: SUBMIT and its rows, and the no-card path (R130 to R144). -/

namespace Sys2Proof.Machine

/-- The no-card path, SUBMIT.NOCARD (R132): the request is not latched; `N_DONE` carries the descriptor
with `cmd_error = E_NOMEDIUM`. -/
def noCardOp (req : Request) (s : State) : State :=
  emit (.done (snapshotOf { req with err := s.cfg.err.noMedium })) s

/-- Recording the request (R133): every field latched, nothing cleared. -/
def latch (req : Request) (s : State) : State := { s with q := req, ifV := true }

/-- The stop-transmission special case (R134): trigger the automatic stop, echo the opcode as the
response, complete at once. -/
def stopOp (s : State) : State :=
  let s1 := regWrite .stop (s.cfg.stop.stp.setWidth 32) s
  completeOp eNone { s1 with q := { s1.q with resp0 := s1.q.opc.setWidth 32, resp1 := 0, resp2 := 0, resp3 := 0 } }

/-- An unrecognised response kind is logged and the command proceeds (R136). -/
def logKind (s : State) : State :=
  if respKind s.cfg s.q.rk = .unrecognised then emit (.log (.configRk s.q.rk)) s else s

/-- Automatic multi-block stop is enabled for more than one block; for one block `STOP` is not written
(R138). -/
def enableAutoStop (s : State) : State :=
  if 1 < s.q.blocks.toNat then regWrite .stop (s.cfg.stop.sec.setWidth 32) s else s

/-- The scatter cursor is rebuilt (R139, R27). -/
def rebuildCursor (s : State) : State := { s with curV := true, curI := 0, curO := 0 }

/-- The data part of the register program (R138, R139): automatic stop, cursor, `BLKLEN`, `BLKCOUNT`. -/
def programData (s : State) : State :=
  if s.q.hasData then
    let s1 := rebuildCursor (enableAutoStop s)
    let s2 := regWrite .blkLen (s1.q.blksz.setWidth 32) s1
    regWrite .blkCount (s2.q.blocks.setWidth 32) s2
  else s

/-- The arming writes: `ARG`, then `CMD` (R140). -/
def armWrites (s : State) : State :=
  let s1 := regWrite .arg s.q.arg s
  regWrite .cmd ((commandWord s1.cfg s1.q).setWidth 32) s1

/-- The register program of a latched request (R135 to R140). -/
def registerProgram (s : State) : State := armWrites (programData (logKind s))

/-- A request with the card present (R133, R134): latch it, then the STOP path or the register program. -/
def acceptRequest (req : Request) (s : State) : State :=
  let s1 := latch req s
  if s1.q.opc = s1.cfg.opc.stop then stopOp s1 else registerProgram s1

/-- SUBMIT of a well-formed request (R130), under the lock: the busy fault (R131), else the presence read
(R132) and one of the two paths. -/
def submitBody (req : Request) (s : State) : State :=
  if s.ifV then raise .busySubmit (emit (.log .busySubmit) s)
  else if stBit (regValue .irqStatus s) s.cfg.st.present then acceptRequest req (regRead .irqStatus s)
  else noCardOp req (regRead .irqStatus s)

/-- SUBMIT (R130): a request that is not well formed is refused at the port and gets no step (R28, U5). -/
def submitOp (req : Request) (s : State) : Host.Outcome State Fault Refusal :=
  match requestDefect s.cfg req with
  | some d => .refused (.illFormedRequest d)
  | none => .next (release (submitBody req (acquire s)))

/-- SUBMIT of an opcode with no row of its own (R130). -/
def execSubmit (req : Request) (s : State) : Host.Outcome State Fault Refusal := submitOp req s

/-- SUBMIT.STOP (R134): the rules of SUBMIT (R100). -/
def execSubmitStop (req : Request) (s : State) : Host.Outcome State Fault Refusal := submitOp req s

/-- SUBMIT.SEC52 (R137): the rules of SUBMIT (R100). -/
def execSubmitSec52 (req : Request) (s : State) : Host.Outcome State Fault Refusal := submitOp req s

/-- SUBMIT.SEC53 (R137): the rules of SUBMIT (R100). -/
def execSubmitSec53 (req : Request) (s : State) : Host.Outcome State Fault Refusal := submitOp req s

/-- SUBMIT.APP (R137): the rules of SUBMIT (R100). -/
def execSubmitApp (req : Request) (s : State) : Host.Outcome State Fault Refusal := submitOp req s

/-- SUBMIT.NOCARD, called inside SUBMIT once the presence read shows no card (R92, R132). SUBMIT gets there
with a well-formed request (R28) and the slot empty (R131); with a request in flight it is not selected
and does nothing (log 15). -/
def execSubmitNocard (req : Request) (s : State) : Host.Outcome State Fault Refusal :=
  match requestDefect s.cfg req with
  | some d => .refused (.illFormedRequest d)
  | none => .next (if s.ifV then s else noCardOp req s)

end Sys2Proof.Machine
end

