-- ==== Sys2Proof/Machine/Dispatch.lean ====
section
/-! DEFINITION. The dispatch: one arm per row of the opcode table. -/

namespace Sys2Proof.Machine

def exec (i : Instr) (s : State) : Host.Outcome State Fault Refusal :=
  match i with
  | .attachReset => Sys2Proof.Machine.execAttachReset s
  | .submit req => Sys2Proof.Machine.execSubmit req s
  | .submitStop req => Sys2Proof.Machine.execSubmitStop req s
  | .submitSec52 req => Sys2Proof.Machine.execSubmitSec52 req s
  | .submitSec53 req => Sys2Proof.Machine.execSubmitSec53 req s
  | .submitApp req => Sys2Proof.Machine.execSubmitApp req s
  | .apply clockHz width powerOff => Sys2Proof.Machine.execApply clockHz width powerOff s
  | .getCd => Sys2Proof.Machine.execGetCd s
  | .getRo => Sys2Proof.Machine.execGetRo s
  | .sdioEn en => Sys2Proof.Machine.execSdioEn en s
  | .irq => Sys2Proof.Machine.execIrq s
  | .sdioIrq => Sys2Proof.Machine.execSdioIrq s
  | .submitNocard req => Sys2Proof.Machine.execSubmitNocard req s
  | .hotplug => Sys2Proof.Machine.execHotplug s
  | .errclass st => Sys2Proof.Machine.execErrclass st s
  | .pump => Sys2Proof.Machine.execPump s
  | .respcap st => Sys2Proof.Machine.execRespcap st s
  | .dataend st => Sys2Proof.Machine.execDataend st s
  | .complete e => Sys2Proof.Machine.execComplete e s
  | .hwreset => Sys2Proof.Machine.execHwreset s

end Sys2Proof.Machine
end

