-- ==== Sys2Proof/Machine/Fetch.lean ====
section
/-! DEFINITION. What the next step runs: the next call of the operation in progress, or the selection presented
first at the port, if the sequencer may take it (R70, R90, R92, R113, R251, R267). The sequencer fetches no
instruction (R29); this stands in fetch's place. -/

namespace Sys2Proof.Machine

/-- What the next step does. -/
inductive Fetched
  /-- nothing is selected (log 2) -/
  | idle
  /-- the operation in progress has no call left: it returns and frees the lock (R32, R236; log 18) -/
  | finish
  /-- `FAULT = 1`: no further behaviour (R31, R267; log 4) -/
  | faulted (f : Fault)
  /-- the selection is refused (R113, R251) -/
  | refuse (r : Refusal)
  /-- the sub-handler is not selected, and the operation goes on without it (R92) -/
  | pass (s : State)
  /-- the instruction runs, from the state with the selection taken -/
  | run (i : Instr) (s : State)

/-- The refusal a rejected selection gets (R113). -/
def refusalOf : DecodeError → Refusal
  | .reservedSelect u => .reservedSelect u
  | .reservedErrorCode e => .reservedErrorCode e
  | .noFormat => .noFormat

/-- ATTACH_RESET is admitted only as the first step of a run (R251, U16); every other instruction always. -/
def admitted (i : Instr) (s : State) : Bool := i != .attachReset || s.fresh

/-- The transaction is taken: it leaves the port and the run has begun. -/
def takeInput (s : State) : State := { s with inputs := s.inputs.tail, fresh := false }

/-- The call is taken. -/
def takeCall (s : State) : State := { s with calls := s.calls.tail, fresh := false }

/-- A selection, decoded and admitted; `taken` is the state with it taken. -/
def fetchSelection (sel : Selection) (taken s : State) : Fetched :=
  match decode s.cfg sel with
  | .reject e => .refuse (refusalOf e)
  | .pass => .pass taken
  | .ok i => if admitted i s then .run i taken else .refuse .attachResetMidRun

/-- What the next step does: while the lock is held the calls of the operation in progress, while it is
free the transactions presented. -/
def fetch (s : State) : Fetched :=
  match s.fault with
  | some f => .faulted f
  | none =>
    match s.lock with
    | .held =>
      match s.calls with
      | [] => .finish
      | k :: _ => fetchSelection (.call k) (takeCall s) s
    | .free =>
      match s.inputs with
      | [] => .idle
      | t :: _ => fetchSelection (.port t) (takeInput s) s

/-- A selection presented before everything else: a transaction at the port, a call inside an operation in
progress, which holds the lock. -/
def presentFirst (sel : Selection) (s : State) : State :=
  match sel with
  | .port t => { s with inputs := t :: s.inputs }
  | .call k => { s with lock := .held, calls := k :: s.calls }

end Sys2Proof.Machine
end

