-- ==== Sys2Proof/Machine/Step.lean ====
section
/-! DEFINITION. One step of the machine: one whole operation under the lock (R70), or one call of an operation in
progress (R92), and the placing of a word of the opcode table where the next step takes its selection. -/

namespace Sys2Proof.Machine

/-- One step. With nothing selected the state stands still. -/
def step (s : State) : Host.Outcome State Fault Refusal :=
  match fetch s with
  | .idle => .next s
  | .finish => .next (release s)
  | .faulted f => .fault f
  | .refuse r => .refused r
  | .pass s' => .next s'
  | .run i s' => exec i s'

/-- The state with the selection that a word of the opcode table stands for presented next. -/
def State.withFetchWord (s : State) (nbits w : Nat) : State := presentFirst (tableSelection nbits w) s

end Sys2Proof.Machine
end

