-- ==== Sys2Proof/Safety.lean ====
section
/-! DEFINITION. The terms claims are stated in: which request an operation submits, which events an operation may
emit, the notifications and accesses in the event history, the bytes a transfer has moved, and the
invariant of R273. -/

namespace Sys2Proof

/-- The descriptor a SUBMIT row carries (R100: the five rows share the rules of SUBMIT). -/
def Instr.submitted : Instr → Option Request
  | .submit req | .submitStop req | .submitSec52 req | .submitSec53 req | .submitApp req => some req
  | .attachReset | .apply _ _ _ | .getCd | .getRo | .sdioEn _ | .irq | .sdioIrq | .submitNocard _
  | .hotplug | .errclass _ | .pump | .respcap _ | .dataend _ | .complete _ | .hwreset => none

/-- A SUBMIT row, or the no-card path that SUBMIT runs for its descriptor (R92): what takes a request from
the stack. -/
def Instr.takesRequest : Instr → Bool
  | .submit _ | .submitStop _ | .submitSec52 _ | .submitSec53 _ | .submitApp _ | .submitNocard _ => true
  | .attachReset | .apply _ _ _ | .getCd | .getRo | .sdioEn _ | .irq | .sdioIrq
  | .hotplug | .errclass _ | .pump | .respcap _ | .dataend _ | .complete _ | .hwreset => false

namespace Machine

/-- Who writes a register (R35, R65), `s` being the state before: a sub-handler inside IRQ counts as IRQ and
as itself. -/
def legalWrite (s : State) (i : Instr) : RegName → Prop
  | .arg | .cmd => ∃ req, i.submitted = some req ∧ req.opc ≠ s.cfg.opc.stop
  | .blkLen | .blkCount =>
    ∃ req, i.submitted = some req ∧ req.opc ≠ s.cfg.opc.stop ∧ req.hasData = true
  | .stop => i.submitted.isSome = true ∨ i = .irq ∨ ∃ st, i = .dataend st
  | .irqStatus => i = .irq
  | .clkCtl | .opt => ∃ hz width powerOff, i = .apply hz width powerOff
  | .resp0 | .resp1 | .resp2 | .resp3 | .status2 | .irqMask => False

/-- Who reads a register (R35, R65). -/
def legalRead (i : Instr) : RegName → Prop
  | .irqStatus => i.submitted.isSome = true ∨ i = .irq ∨ i = .hotplug ∨ i = .getCd ∨ i = .getRo
  | .status2 => i = .irq ∨ i = .pump
  | .resp0 | .resp1 | .resp2 | .resp3 => i = .irq ∨ ∃ st, i = .respcap st
  | .cmd | .arg | .stop | .blkCount | .irqMask | .clkCtl | .blkLen | .opt => False

/-- Who writes which value to `STOP` (R108, D10): the trigger for the stop-transmission command, automatic
stop for a transfer of more than one block, 0 at data end. -/
def legalStop (s : State) (i : Instr) (v : Word) : Prop :=
  (∃ req, i.submitted = some req ∧ req.opc = s.cfg.opc.stop
      ∧ v = truncToReg s.cfg .stop (s.cfg.stop.stp.setWidth 32)) ∨
  (∃ req, i.submitted = some req ∧ req.opc ≠ s.cfg.opc.stop ∧ req.hasData = true ∧ 1 < req.blocks.toNat
      ∧ v = truncToReg s.cfg .stop (s.cfg.stop.sec.setWidth 32)) ∨
  ((i = .irq ∨ ∃ st, i = .dataend st) ∧ v = 0#32)

/-- Who emits a diagnostic (R65, R97). -/
def legalLog (i : Instr) : LogKind → Prop
  | .busySubmit | .configRk _ => i.submitted.isSome = true
  | .configWidth width => ∃ hz powerOff, i = .apply hz width powerOff
  | .ioErrBits _ => i = .irq ∨ ∃ st, i = .errclass st
  | .desyncResp => i = .irq ∨ ∃ st, i = .respcap st
  | .desyncDend => i = .irq ∨ ∃ st, i = .dataend st

/-- A data access of the pump in the direction `read`: a transfer of that direction is in flight (R65). -/
def pumpAccess (s : State) (i : Instr) (read : Bool) : Prop :=
  (i = .irq ∨ i = .pump) ∧ s.ifV = true ∧ s.q.hasData = true ∧ s.q.dir = read

/-- The events an instruction may emit from a state: the tables of R35 and R65. -/
def legalEvent (s : State) (i : Instr) : Event → Prop
  | .regRead r _ => legalRead i r
  | .regWrite r v => legalWrite s i r ∧ (r = .stop → legalStop s i v)
  | .fifoRead _ => pumpAccess s i true
  | .memWrite _ _ => pumpAccess s i true
  | .fifoWrite _ => pumpAccess s i false
  | .memRead _ _ => pumpAccess s i false
  | .hwReset => i = .irq ∨ i = .hotplug ∨ i = .hwreset
  | .delay _ => ∃ hz width powerOff, i = .apply hz width powerOff
  | .done _ => i.takesRequest = true ∨ i = .irq ∨ i = .hotplug ∨ (∃ st, i = .respcap st)
      ∨ (∃ st, i = .dataend st) ∨ ∃ e, i = .complete e
  | .card => i = .irq ∨ i = .hotplug
  | .sdio => i = .sdioIrq
  | .ret _ => i = .getCd ∨ i = .getRo
  | .log k => legalLog i k

/-- An `N_DONE` event. -/
def Event.isDone : Event → Bool
  | .done _ => true
  | .regRead _ _ | .regWrite _ _ | .fifoRead _ | .fifoWrite _ | .memRead _ _ | .memWrite _ _ | .hwReset
  | .delay _ | .card | .sdio | .ret _ | .log _ => false

/-- A register write, of any register. -/
def Event.isRegWrite : Event → Bool
  | .regWrite _ _ => true
  | .regRead _ _ | .fifoRead _ | .fifoWrite _ | .memRead _ _ | .memWrite _ _ | .hwReset | .delay _
  | .done _ | .card | .sdio | .ret _ | .log _ => false

/-- The address of a scatter-memory access. -/
def Event.memAddr : Event → Option MemAddr
  | .memRead a _ | .memWrite a _ => some a
  | .regRead _ _ | .regWrite _ _ | .fifoRead _ | .fifoWrite _ | .hwReset | .delay _ | .done _ | .card
  | .sdio | .ret _ | .log _ => none

/-- How many completion notifications the history holds. -/
def doneCount (s : State) : Nat := s.history.countP Event.isDone

/-- 1 with a request in flight, else 0. -/
def inFlight (s : State) : Nat := s.ifV.toNat

/-- The bytes moved so far (R177): the segments before the cursor, plus `CUR_O`. -/
def movedBytes (s : State) : Nat := totalLen (s.q.segs.take s.curI) + s.curO.toNat

/-- A 4-byte access at `a` is aligned and lies inside segment `g` (R63, R68). -/
def insideSegment (g : Segment) (a : MemAddr) : Prop :=
  a.handle = g.handle ∧ a.off.toNat % 4 = 0 ∧ g.off.toNat ≤ a.off.toNat
    ∧ a.off.toNat + 4 ≤ g.off.toNat + g.len.toNat

/-- The n-th coming answer of the controller, from 0: the word of the read that follows n others (R78). -/
def answerAt : Nat → State → Word
  | 0, s => nextAnswer s
  | n + 1, s => answerAt n (consumeAnswer s)

/-- The cursor is inside the segment table (R26, R273.2), and past its end it stands at offset 0 (R173). -/
structure CursorOk (segs : List Segment) (i : Nat) (o : Word) : Prop where
  index   : i ≤ segs.length
  offset  : ∀ g, segs[i]? = some g → o.toNat ≤ g.len.toNat
  aligned : o.toNat % 4 = 0
  atEnd   : segs[i]? = none → o = 0#32

/-- The invariant of every step: the clauses of R273 that one state shows, with a legal configuration
(R118), no call left over once the lock is free (R32, R92) and memory in canonical form. `FAULT = 0`
(R273.7) is left out: it holds only while the stack keeps its duties, and a faulted state is as legal as any
other. -/
structure Inv (s : State) : Prop where
  cfg      : s.cfg.Valid
  calls    : s.lock = .free → s.calls = []
  cursorV  : s.curV = (s.ifV && s.q.hasData)
  cursor   : s.curV = true → CursorOk s.q.segs s.curI s.curO
  transfer : s.curV = true → transferDefect s.cfg s.q = none
  errCode  : s.ifV = true → s.q.err ∈ s.cfg.err.codes
  derr     : s.ifV = true → s.q.derr = eNone
  bytes    : s.ifV = true → s.q.bytes = 0#32
  mem      : Memory.wf s.mem

/-- A state a run of a stack that keeps its duties can be in (R254, R267). -/
structure Safe (s : State) : Prop where
  inv   : Inv s
  fault : s.fault = none

end Machine

end Sys2Proof
end

