-- ==== Sys2Proof/Certificates/Slice0/Obligations.lean ====
section
/-! DEFINITION. The statements for the provers. Each docstring names the rule it formalises; "the spec's own
decision" marks a clause that rests on `spec/92_eei_decisions.md`, "the model's choice" one that rests on
the assumption log. Statements hold for every configuration, or for every one that meets R118. -/

open Sys2Proof Sys2Proof.Machine

/-! ### Encoding and selection -/

/-- R91, R92, R93, R100: decoding the encoding of a well-formed instruction gives it back, for every legal
configuration and every operand the encoding admits. -/
def Obligations.DecodeOfEncodeIsTheInstruction : Prop :=
  ∀ (c : Cfg), c.Valid → ∀ i : Instr, i.wellFormed c = true → decode c (encode c i) = .ok i

/-- R93, R100: a port transaction decoded as a SUBMIT row carries the descriptor on the ports, and the row
is the one its opcode selects, exact keys first. -/
def Obligations.SubmitRowIsSelectedByOpcode : Prop :=
  ∀ (c : Cfg) (t : Transaction) (i : Instr) (req : Request),
    decode c (.port t) = .ok i → i.submitted = some req →
    t.select = c.sel.submit ∧ req = t.ops.req ∧
    (i = .submitStop req ↔ req.opc = c.opc.stop) ∧
    (i = .submitSec52 req → req.opc = c.opc.sdioDirect) ∧
    (i = .submitSec53 req → req.opc = c.opc.sdioExt) ∧
    (i = .submitApp req → req.opc = c.opc.app) ∧
    (i = .submit req ↔ req.opc ≠ c.opc.stop ∧ req.opc ≠ c.opc.sdioDirect ∧ req.opc ≠ c.opc.sdioExt
      ∧ req.opc ≠ c.opc.app)

/-- R91, R92, R100 with the codes of `CFG_REF` (the spec's own decision D1): words written out from the
opcode table's bit patterns decode to the rows they stand for, the operand ports being 0. Which row a bare
status word is read as is the model's choice (log 16). -/
def Obligations.TableWordsDecodeToTheirRows : Prop :=
  decodeTableWord 16 0b0000000000 = some .attachReset ∧
  decodeTableWord 16 0b0001001100 = some (.submitStop { Request.zero with opc := 0b001100#16 }) ∧
  decodeTableWord 16 0b0001110101 = some (.submitSec53 { Request.zero with opc := 0b110101#16 }) ∧
  decodeTableWord 16 0b0001000001 = some (.submit { Request.zero with opc := 0b000001#16 }) ∧
  decodeTableWord 16 0b0011000000 = some .getCd ∧
  decodeTableWord 16 0b1000000000 = some .irq ∧
  decodeTableWord 16 0b1001111111 = some .sdioIrq ∧
  decodeTableWord 32 0x00000001 = some (.respcap 0x00000001#32) ∧
  decodeTableWord 32 0x00400000 = some (.errclass 0x00400000#32) ∧
  decodeTableWord 16 0b0110000000 = none ∧
  decodeTableWord 8 0b0001 = some (.complete 1#4)

/-- R28, R93 (each number fits its latch register), with the range and overlap clauses of R208, D25 and U5
(the model's reading, log 10): the descriptors admitted are exactly the well-formed ones. That without data
the segment count is not held to `NSEG_MAX` is the model's choice (log 13). -/
def Obligations.AdmittedDescriptorsAreTheWellFormedOnes : Prop :=
  ∀ (c : Cfg) (r : Request), requestDefect c r = none ↔
    (r.opc.toNat < 2 ^ c.width.opc ∧ r.arg.toNat < 2 ^ c.width.arg ∧
      r.blksz.toNat < 2 ^ c.width.blk ∧ r.blocks.toNat < 2 ^ c.width.blk ∧
      r.err = 0#4 ∧ r.derr = 0#4 ∧ r.bytes = 0#32 ∧
      (r.hasData = true →
        4 ≤ r.blksz.toNat ∧ r.blksz.toNat % 4 = 0 ∧ 1 ≤ r.blocks.toNat ∧
        1 ≤ r.segs.length ∧ r.segs.length ≤ c.nsegMax ∧
        (∀ g ∈ r.segs, g.off.toNat % 4 = 0 ∧ g.len.toNat % 4 = 0) ∧
        (r.segs.map fun g => g.len.toNat).sum = r.blocks.toNat * r.blksz.toNat ∧
        (∀ g ∈ r.segs, g.off.toNat + g.len.toNat < 2 ^ 32) ∧
        r.segs.Pairwise fun a b => a.handle = b.handle → ∀ x : Nat,
          ¬ (a.off.toNat ≤ x ∧ x < a.off.toNat + a.len.toNat ∧
             b.off.toNat ≤ x ∧ x < b.off.toNat + b.len.toNat)))

/-! ### The step -/

/-- R29, R70, R90, R92: a step runs what is selected. With no fault and the lock free it runs the
transaction first at the port (ATTACH_RESET only as the first step); with the lock held, that is inside an
operation in progress, it runs the operation's next call, and goes on past a sub-handler whose condition
does not select it. Either way it is exactly the instruction's execution, from the state with the selection
taken and the run begun. That the calls left of an operation stand in a list is the model's choice (log 15).
-/
def Obligations.StepRunsThePresentedInstruction : Prop :=
  ∀ s : State, s.fault = none →
    (∀ (t : Transaction) (rest : List Transaction) (i : Instr), s.lock = .free → s.inputs = t :: rest →
      decode s.cfg (.port t) = .ok i → (i = .attachReset → s.fresh = true) →
      step s = exec i { s with inputs := rest, fresh := false }) ∧
    (∀ (k : Call) (rest : List Call), s.lock = .held → s.calls = k :: rest →
      (∀ i, decode s.cfg (.call k) = .ok i → step s = exec i { s with calls := rest, fresh := false }) ∧
      (decode s.cfg (.call k) = .pass → step s = .next { s with calls := rest, fresh := false }))

/-- R31, R267 (the spec's own decision D14; that a faulted machine stops is the model's choice, log 4): a
step with `FAULT` set is the fault. R32, R236 (the spec's own decision D33): an operation in progress with
no call left returns and frees the lock; that such a step is one of its own is the model's choice (log 18).
With the lock free and nothing presented a step changes nothing: the model's choice (log 2). -/
def Obligations.StepStopsOrStandsStill : Prop :=
  ∀ s : State,
    (∀ f, s.fault = some f → step s = .fault f) ∧
    (s.fault = none → s.lock = .held → s.calls = [] → step s = .next { s with lock := .free }) ∧
    (s.fault = none → s.lock = .free → s.inputs = [] → step s = .next s)

/-- R113, R251, U9, U16 (the spec's own decisions D1, D34): refused at the port, without a step: a `u_op`
code of no operation, and ATTACH_RESET after the first step of a run. -/
def Obligations.PortRefusesReservedSelectsAndLateResets : Prop :=
  ∀ (s : State) (t : Transaction) (rest : List Transaction),
    s.fault = none → s.lock = .free → s.inputs = t :: rest →
    (t.select ∉ s.cfg.sel.codes → step s = .refused (.reservedSelect t.select)) ∧
    (t.select = s.cfg.sel.attachReset → s.fresh = false → step s = .refused .attachResetMidRun)

/-! ### Reset -/

/-- R47 (the spec's own decision D34): what reset leaves where R47 gives a value; that memory lists nothing
and that the configuration is `CFG_REF` is the model's choice (log 12, log 1). -/
def Obligations.ResetLeavesSlotEmptyAndNothingPending : Prop :=
  State.reset.ifV = false ∧ State.reset.curV = false ∧ State.reset.sdioEn = false ∧
  State.reset.fault = none ∧ State.reset.lock = .free ∧ State.reset.history = [] ∧
  State.reset.mem = [] ∧ State.reset.cfg = Cfg.ref

/-- R250, R251 (the spec's own decision D34): ATTACH_RESET completes from every state, gives the values of
R47, and touches neither the controller, scatter memory, the configuration nor the inputs. Nothing is said
of the latch file and the cursor's position, which it leaves unspecified. -/
def Obligations.AttachResetClearsControlState : Prop :=
  ∀ s : State, ∃ t, exec .attachReset s = .next t ∧
    t.ifV = false ∧ t.curV = false ∧ t.sdioEn = false ∧ t.fault = none ∧ t.lock = .free ∧
    t.history = [] ∧ t.calls = [] ∧ t.ctl = s.ctl ∧ t.cfg = s.cfg ∧ t.inputs = s.inputs ∧
    t.answers = s.answers ∧ t.fresh = s.fresh ∧ ∀ a, Memory.read t.mem a = Memory.read s.mem a

/-! ### SUBMIT -/

/-- R28, R113, U5: a descriptor that is not well formed is refused by every SUBMIT row, naming the clause
that fails, and so by the no-card path by itself (log 15). -/
def Obligations.IllFormedRequestIsRefused : Prop :=
  ∀ (s : State) (i : Instr) (req : Request) (d : RequestDefect),
    (i.submitted = some req ∨ i = .submitNocard req) → requestDefect s.cfg req = some d →
    exec i s = .refused (.illFormedRequest d)

/-- R131, R31 (the fault is the spec's own decision D14): SUBMIT with a request in flight logs, sets
`FAULT`, and changes nothing else: no access, the request in flight and the cursor as before. -/
def Obligations.BusySubmitSetsFaultAndNothingElse : Prop :=
  ∀ (s : State) (i : Instr) (req : Request),
    i.submitted = some req → requestDefect s.cfg req = none → s.ifV = true →
    exec i s = .next { s with
      lock := .free, fault := some .busySubmit, history := s.history ++ [.log .busySubmit] }

/-- R132 (the spec's own decisions D15, D16): with no card present SUBMIT makes the presence read and no
write, latches nothing, and notifies `E_NOMEDIUM` with the descriptor, whatever the opcode. -/
def Obligations.SubmitWithoutCardNotifiesNoMedium : Prop :=
  ∀ (s : State) (i : Instr) (req : Request),
    i.submitted = some req → requestDefect s.cfg req = none → s.ifV = false →
    stBit (regValue .irqStatus s) s.cfg.st.present = false →
    exec i s = .next { consumeAnswer s with
      lock := .free
      ctl := { s.ctl with irqStatus := regValue .irqStatus s }
      history := s.history ++ [.regRead .irqStatus (regValue .irqStatus s),
        .done (snapshotOf { req with err := s.cfg.err.noMedium })] }

/-- R133, R134 (its place is the spec's own decision D17): the stop-transmission command writes the stop
trigger and nothing else, echoes its opcode as the response, and completes without error in the same call; a
DataTransfer on it is ignored. That the emptied slot's latch file keeps the descriptor with that response is
the model's choice (log 24). -/
def Obligations.StopTransmissionCompletesAtOnce : Prop :=
  ∀ (s : State) (i : Instr) (req : Request),
    i.submitted = some req → requestDefect s.cfg req = none → s.ifV = false →
    stBit (regValue .irqStatus s) s.cfg.st.present = true → req.opc = s.cfg.opc.stop →
    let stp := truncToReg s.cfg .stop (s.cfg.stop.stp.setWidth 32)
    let q' : Request := { req with resp0 := s.cfg.opc.stop.setWidth 32, resp1 := 0, resp2 := 0, resp3 := 0 }
    exec i s = .next { consumeAnswer s with
      lock := .free
      ifV := false
      curV := false
      q := q'
      ctl := { s.ctl with irqStatus := regValue .irqStatus s, stop := stp }
      history := s.history ++ [.regRead .irqStatus (regValue .irqStatus s), .regWrite .stop stp,
        .done (snapshotOf q')] }

/-- R133, R136, R140 (write order and the unrecognised kind: the spec's own decisions D18, D19): a request
without data is latched and the controller armed with `ARG`, then `CMD`; an unrecognised response kind is
logged first and goes on. -/
def Obligations.SubmitWithoutDataArmsTheController : Prop :=
  ∀ (s : State) (i : Instr) (req : Request),
    i.submitted = some req → requestDefect s.cfg req = none → s.ifV = false →
    stBit (regValue .irqStatus s) s.cfg.st.present = true → req.opc ≠ s.cfg.opc.stop → req.hasData = false →
    let arg := truncToReg s.cfg .arg req.arg
    let cmd := truncToReg s.cfg .cmd ((commandWord s.cfg req).setWidth 32)
    exec i s = .next { consumeAnswer s with
      lock := .free
      ifV := true
      q := req
      ctl := { s.ctl with irqStatus := regValue .irqStatus s, arg := arg, cmd := cmd }
      history := s.history ++ [.regRead .irqStatus (regValue .irqStatus s)]
        ++ (if req.rk ∉ [s.cfg.rk.none, s.cfg.rk.r32, s.cfg.rk.r136, s.cfg.rk.r32b]
            then [.log (.configRk req.rk)] else [])
        ++ [.regWrite .arg arg, .regWrite .cmd cmd] }

/-- R133, R138, R139, R140 (write order: the spec's own decision D18): a request with data also enables
automatic stop if it has more than one block (and leaves `STOP` alone if it has one), rebuilds the cursor,
and programs `BLKLEN` and `BLKCOUNT` before the arming writes. -/
def Obligations.SubmitWithDataProgramsTheTransfer : Prop :=
  ∀ (s : State) (i : Instr) (req : Request),
    i.submitted = some req → requestDefect s.cfg req = none → s.ifV = false →
    stBit (regValue .irqStatus s) s.cfg.st.present = true → req.opc ≠ s.cfg.opc.stop → req.hasData = true →
    let sec := truncToReg s.cfg .stop (s.cfg.stop.sec.setWidth 32)
    let blkLen := truncToReg s.cfg .blkLen (req.blksz.setWidth 32)
    let blkCount := truncToReg s.cfg .blkCount (req.blocks.setWidth 32)
    let arg := truncToReg s.cfg .arg req.arg
    let cmd := truncToReg s.cfg .cmd ((commandWord s.cfg req).setWidth 32)
    exec i s = .next { consumeAnswer s with
      lock := .free
      ifV := true
      q := req
      curV := true
      curI := 0
      curO := 0
      ctl := { s.ctl with
        irqStatus := regValue .irqStatus s
        stop := if 1 < req.blocks.toNat then sec else s.ctl.stop
        blkLen := blkLen
        blkCount := blkCount
        arg := arg
        cmd := cmd }
      history := s.history ++ [.regRead .irqStatus (regValue .irqStatus s)]
        ++ (if req.rk ∉ [s.cfg.rk.none, s.cfg.rk.r32, s.cfg.rk.r136, s.cfg.rk.r32b]
            then [.log (.configRk req.rk)] else [])
        ++ (if 1 < req.blocks.toNat then [.regWrite .stop sec] else [])
        ++ [.regWrite .blkLen blkLen, .regWrite .blkCount blkCount, .regWrite .arg arg, .regWrite .cmd cmd] }

/-- R98, R99, R135 to R138 (the zero field of an unrecognised kind is the spec's own decision D19): every
field of the command word, read back from the word through its mask, is what the request asks for, and no
bit outside the fields is set, in every legal configuration. -/
def Obligations.CommandWordFieldsReadBack : Prop :=
  ∀ (c : Cfg) (r : Request), c.Valid → r.opc.toNat < 2 ^ c.width.opc →
    let cw := commandWord c r
    cw &&& c.cw.index = r.opc ∧
    cw &&& (c.cw.respNone ||| c.cw.respR1 ||| c.cw.respR1b ||| c.cw.respR2)
      = (if r.rk = c.rk.none then c.cw.respNone else if r.rk = c.rk.r32 then c.cw.respR1
         else if r.rk = c.rk.r136 then c.cw.respR2 else if r.rk = c.rk.r32b then c.cw.respR1b else 0#16) ∧
    cw &&& c.cw.security
      = (if r.opc = c.opc.sdioDirect ∨ r.opc = c.opc.sdioExt then c.cw.security else 0#16) ∧
    cw &&& c.cw.app = (if r.opc = c.opc.app then c.cw.app else 0#16) ∧
    cw &&& c.cw.data = (if r.hasData = true then c.cw.data else 0#16) ∧
    cw &&& c.cw.multi = (if r.hasData = true ∧ 1 < r.blocks.toNat then c.cw.multi else 0#16) ∧
    cw &&& c.cw.read = (if r.hasData = true ∧ r.dir = true then c.cw.read else 0#16) ∧
    cw &&& ~~~(c.cw.index ||| c.cw.app ||| c.cw.respNone ||| c.cw.respR1 ||| c.cw.respR1b ||| c.cw.respR2
      ||| c.cw.data ||| c.cw.read ||| c.cw.multi ||| c.cw.security) = 0#16

/-- R141: the side effects of one SUBMIT that takes a step: no register write when it faults or finds no
card, one for the stop command, two without data, four for one block, five for more; and `N_DONE` on the
no-card and the stop path only, on every other path the request in flight. -/
def Obligations.SubmitSideEffectsPerCall : Prop :=
  ∀ (s t : State) (i : Instr) (req : Request),
    i.submitted = some req → exec i s = .next t →
    t.history.countP Event.isRegWrite = s.history.countP Event.isRegWrite
      + (if s.ifV = true ∨ stBit (regValue .irqStatus s) s.cfg.st.present = false then 0
         else if req.opc = s.cfg.opc.stop then 1
         else if req.hasData = false then 2
         else if req.blocks.toNat ≤ 1 then 4 else 5) ∧
    (if s.ifV = false ∧ (stBit (regValue .irqStatus s) s.cfg.st.present = false ∨ req.opc = s.cfg.opc.stop)
     then t.ifV = false ∧ doneCount t = doneCount s + 1
     else t.ifV = true ∧ doneCount t = doneCount s)

/-- R132 (the spec's own decision D16): SUBMIT.NOCARD with the slot empty: one `N_DONE` with `E_NOMEDIUM`
and the descriptor, and nothing else. That by itself, with a request in flight, it does nothing is the
model's choice (log 15): SUBMIT never gets there (R131). -/
def Obligations.NoCardHandlerOnlyNotifies : Prop :=
  ∀ (s : State) (req : Request), requestDefect s.cfg req = none →
    (s.ifV = false → exec (.submitNocard req) s = .next { s with
      history := s.history ++ [.done (snapshotOf { req with err := s.cfg.err.noMedium })] }) ∧
    (s.ifV = true → exec (.submitNocard req) s = .next s)

/-! ### APPLY -/

/-- R200, R203, R204, R206, R207: the divider is rounded up to the least power of two and divided by four,
the pin is enabled, the idle freeze is set from `HS_THRESHOLD` on, and `CLKCTL`, `OPT` and the settle delay
follow in that order; a divider of at most 1 gives the "no division" code (the floor divisions, that code
and the write order are the spec's own decision D11). Nothing else changes. -/
def Obligations.ApplyProgramsClockAndWidth : Prop :=
  ∀ (s : State) (hz : Word) (width : BitVec 8) (opt code clk : Half),
    (width = 1#8 ∧ opt = s.cfg.opt.retry ||| s.cfg.opt.timeout ||| s.cfg.opt.noC2 ||| s.cfg.opt.w1 ∨
     width = 4#8 ∧ opt = s.cfg.opt.retry ||| s.cfg.opt.timeout ||| s.cfg.opt.noC2 ||| s.cfg.opt.w4) →
    0 < hz.toNat →
    (s.cfg.srcClk / hz.toNat ≤ 1 ∧ code = s.cfg.clk.codeNoDiv ∨
     1 < s.cfg.srcClk / hz.toNat ∧ ∃ k : Nat,
       s.cfg.srcClk / hz.toNat ≤ 2 ^ k ∧ (∀ j : Nat, s.cfg.srcClk / hz.toNat ≤ 2 ^ j → k ≤ j) ∧
       2 ^ k / 4 < 2 ^ s.cfg.clk.codeBits ∧ code = BitVec.ofNat 16 (2 ^ k / 4)) →
    clk = code ||| s.cfg.clk.pinEn ||| (if s.cfg.hsThreshold ≤ hz.toNat then s.cfg.clk.freeze else 0#16) →
    let clkReg := truncToReg s.cfg .clkCtl (clk.setWidth 32)
    let optReg := truncToReg s.cfg .opt (opt.setWidth 32)
    exec (.apply hz width false) s = .next { s with
      lock := .free
      ctl := { s.ctl with clkCtl := clkReg, opt := optReg }
      history := s.history ++ [.regWrite .clkCtl clkReg, .regWrite .opt optReg, .delay .tSettle] }

/-- R202, R205: a clock request of 0, or powering the bus off whatever the admitted clock request, writes
`CLK_OFF` (the spec's own decision D11); the card options are written from the width all the same. The clock
requests spoken of are those U8 admits, those with a divider code that fits its field; that U8 bounds APPLY
with `power_off` too is the model's reading (log 11). -/
def Obligations.ApplyTurnsTheClockOff : Prop :=
  ∀ (s : State) (hz : Word) (width : BitVec 8) (powerOff : Bool) (opt : Half),
    (width = 1#8 ∧ opt = s.cfg.opt.retry ||| s.cfg.opt.timeout ||| s.cfg.opt.noC2 ||| s.cfg.opt.w1 ∨
     width = 4#8 ∧ opt = s.cfg.opt.retry ||| s.cfg.opt.timeout ||| s.cfg.opt.noC2 ||| s.cfg.opt.w4) →
    (hz = 0#32 ∨ powerOff = true ∧
      ∃ k : Nat, s.cfg.srcClk / hz.toNat ≤ 2 ^ k ∧ 2 ^ k / 4 < 2 ^ s.cfg.clk.codeBits) →
    let clkReg := truncToReg s.cfg .clkCtl (s.cfg.clk.off.setWidth 32)
    let optReg := truncToReg s.cfg .opt (opt.setWidth 32)
    exec (.apply hz width powerOff) s = .next { s with
      lock := .free
      ctl := { s.ctl with clkCtl := clkReg, opt := optReg }
      history := s.history ++ [.regWrite .clkCtl clkReg, .regWrite .opt optReg, .delay .tSettle] }

/-- R201: an unrecognised bus width is logged and the call is a no-op, whatever `power_off` and the admitted
clock request are. The clock requests spoken of are those U8 admits; that U8 bounds this APPLY too is the
model's reading (log 11). -/
def Obligations.ApplyUnknownWidthIsLoggedNoOp : Prop :=
  ∀ (s : State) (hz : Word) (width : BitVec 8) (powerOff : Bool), width ≠ 1#8 → width ≠ 4#8 →
    (hz = 0#32 ∨ ∃ k : Nat, s.cfg.srcClk / hz.toNat ≤ 2 ^ k ∧ 2 ^ k / 4 < 2 ^ s.cfg.clk.codeBits) →
    exec (.apply hz width powerOff) s = .next { s with
      lock := .free, history := s.history ++ [.log (.configWidth width)] }

/-- R111, U8 (that the bound holds for every width and with `power_off` too is the model's reading, log 11):
with the clock fields of `CFG_REF` a nonzero clock request is refused exactly when its divider is above 512.
-/
def Obligations.ApplyRefusesDividersAbove512 : Prop :=
  ∀ (s : State) (hz : Word) (width : BitVec 8) (powerOff : Bool), s.cfg.clk = Cfg.ref.clk → 0 < hz.toNat →
    (exec (.apply hz width powerOff) s = .refused .clockOutOfRange ↔ 512 < s.cfg.srcClk / hz.toNat)

/-! ### Queries and the SDIO relay -/

/-- R210, R211, R212, R213 (the spec's own decisions D15, D32): the two queries make one status read, answer
from its bit, and change nothing else. -/
def Obligations.QueriesAnswerFromOneStatusRead : Prop :=
  ∀ s : State,
    exec .getCd s = .next { consumeAnswer s with
      lock := .free
      ctl := { s.ctl with irqStatus := regValue .irqStatus s }
      history := s.history ++ [.regRead .irqStatus (regValue .irqStatus s),
        .ret ((regValue .irqStatus s).getLsbD s.cfg.st.present.val)] } ∧
    exec .getRo s = .next { consumeAnswer s with
      lock := .free
      ctl := { s.ctl with irqStatus := regValue .irqStatus s }
      history := s.history ++ [.regRead .irqStatus (regValue .irqStatus s),
        .ret (decide ((regValue .irqStatus s).getLsbD s.cfg.st.wp.val = s.cfg.wpPolarity))] }

/-- R214, R215, R216 (the spec's own decision D31): SDIO_EN writes its bit and makes no access; SDIO_IRQ
notifies exactly when the bit is set and changes nothing else. -/
def Obligations.SdioEnableAndRelay : Prop :=
  ∀ (s : State) (en : Bool),
    exec (.sdioEn en) s = .next { s with lock := .free, sdioEn := en } ∧
    exec .sdioIrq s = .next { s with
      lock := .free, history := s.history ++ (if s.sdioEn = true then [.sdio] else []) }

/-! ### COMPLETE -/

/-- R196, R197, R199: with a request in flight COMPLETE attaches a nonzero error code and keeps the recorded
one for `E_NONE`, empties the slot, discards the cursor and notifies once, with a snapshot of every command
register of the latch file as it leaves it, and of the DataTransfer's registers exactly when `Q_HASDATA =
1`; nothing else changes. With the slot empty it is a no-op. The snapshot's shape is the model's reading of
R24 and R116 (log 21); that the emptied slot's latch file and the cursor's position keep their values is its
choice (log 24). -/
def Obligations.CompleteFinishesTheRequest : Prop :=
  ∀ (s : State) (e : BitVec 4),
    (s.ifV = true →
      exec (.complete e) s = .next { s with
        ifV := false
        curV := false
        q := { s.q with err := if e = 0#4 then s.q.err else e }
        history := s.history ++ [.done {
          opc := s.q.opc, arg := s.q.arg, rk := s.q.rk, resp0 := s.q.resp0, resp1 := s.q.resp1
          resp2 := s.q.resp2, resp3 := s.q.resp3, err := if e = 0#4 then s.q.err else e
          data := if s.q.hasData = true then
              some ⟨s.q.dir, s.q.blksz, s.q.blocks, s.q.segs, s.q.bytes, s.q.derr⟩ else none }] }) ∧
    (s.ifV = false → exec (.complete e) s = .next s)

/-! ### IRQ, HOTPLUG, HWRESET, ERRCLASS -/

/-- R158 (what the acknowledge names is the spec's own decision D13): with no request in flight and no
hotplug event the batch reads the status, acknowledges, and stops: nothing is classified, logged or changed.
-/
def Obligations.SpuriousInterruptOnlyAcknowledges : Prop :=
  ∀ s : State, s.ifV = false →
    let st := regValue .irqStatus s
    let ack := truncToReg s.cfg .irqStatus (ackSet s.cfg st)
    hotplugEvent s.cfg st = false →
    exec .irq s = .next { consumeAnswer s with
      lock := .free
      ctl := { s.ctl with irqStatus := st &&& ~~~(ack &&& s.cfg.irqKnown) }
      history := s.history ++ [.regRead .irqStatus st, .regWrite .irqStatus ack] }

/-- R160, R161, R162 (the classification is the spec's own decision D22): a CRC failure or a generic I/O
error ends the batch: the error is attached, the raw bits are logged for the I/O error alone, and the
request stays in flight with its cursor, without notification or any further access. -/
def Obligations.ErrorAbortLeavesTheRequestInFlight : Prop :=
  ∀ s : State, s.cfg.Valid → s.ifV = true →
    let st := regValue .irqStatus s
    let ack := truncToReg s.cfg .irqStatus (ackSet s.cfg st)
    hotplugEvent s.cfg st = false → (classify s.cfg st = .dataIntegrity ∨ classify s.cfg st = .io) →
    exec .irq s = .next { consumeAnswer s with
      lock := .free
      q := { s.q with err := if classify s.cfg st = .io then s.cfg.err.io else s.cfg.err.dataIntegrity }
      ctl := { s.ctl with irqStatus := st &&& ~~~(ack &&& s.cfg.irqKnown) }
      history := s.history ++ [.regRead .irqStatus st, .regWrite .irqStatus ack]
        ++ (if classify s.cfg st = .io then [.log (.ioErrBits (st &&& s.cfg.errGroup))] else []) }

/-- R159, R160, R161, R163, R180 to R182, R184, R185, R191 (the classification and the response reads are
the spec's own decisions D22, D28, the unrecognised kind D19): a batch that shows command-response-ready,
for a request without data, captures the response its kind asks for and completes; a command timeout in the
same batch does not stop it and is delivered as the error; a data-end bit beside it is logged as spurious
afterwards. Nothing is said of the response words of an unrecognised kind. That the emptied slot's latch
file keeps what the snapshot shows is the model's choice (log 24). -/
def Obligations.ResponseReadyBatchCompletesCommand : Prop :=
  ∀ s : State, s.cfg.Valid → s.ifV = true → s.q.hasData = false →
    let st := regValue .irqStatus s
    let ack := truncToReg s.cfg .irqStatus (ackSet s.cfg st)
    let w0 := truncToReg s.cfg .resp0 (answerAt 1 s)
    let w1 := truncToReg s.cfg .resp1 (answerAt 2 s)
    let w2 := truncToReg s.cfg .resp2 (answerAt 3 s)
    let w3 := truncToReg s.cfg .resp3 (answerAt 4 s)
    hotplugEvent s.cfg st = false → (classify s.cfg st = .noError ∨ classify s.cfg st = .timeout) →
    stBit st s.cfg.st.respEnd = true →
    ∃ (t : State) (q' : Request) (reads : List Event), exec .irq s = .next t ∧
      (s.q.rk = s.cfg.rk.none → reads = [] ∧
        (q'.resp0, q'.resp1, q'.resp2, q'.resp3) = (s.q.resp0, s.q.resp1, s.q.resp2, s.q.resp3)) ∧
      (s.q.rk = s.cfg.rk.r32 ∨ s.q.rk = s.cfg.rk.r32b → reads = [.regRead .resp0 w0] ∧
        (q'.resp0, q'.resp1, q'.resp2, q'.resp3) = (w0, s.q.resp1, s.q.resp2, s.q.resp3)) ∧
      (s.q.rk = s.cfg.rk.r136 →
        reads = [.regRead .resp0 w0, .regRead .resp1 w1, .regRead .resp2 w2, .regRead .resp3 w3] ∧
        (q'.resp0, q'.resp1, q'.resp2, q'.resp3) = repack136 s.cfg w0 w1 w2 w3) ∧
      (s.q.rk ∉ [s.cfg.rk.none, s.cfg.rk.r32, s.cfg.rk.r136, s.cfg.rk.r32b] → reads = []) ∧
      (s.q.rk ∈ [s.cfg.rk.none, s.cfg.rk.r32, s.cfg.rk.r136, s.cfg.rk.r32b] →
        ∀ n, answerAt n t = answerAt (n + reads.length + 1) s) ∧
      q'.err = (if classify s.cfg st = .timeout then s.cfg.err.timeout else s.q.err) ∧
      { q' with err := s.q.err, resp0 := s.q.resp0, resp1 := s.q.resp1, resp2 := s.q.resp2,
                resp3 := s.q.resp3 } = s.q ∧
      { t.ctl with resp0 := s.ctl.resp0, resp1 := s.ctl.resp1, resp2 := s.ctl.resp2, resp3 := s.ctl.resp3 }
        = { s.ctl with irqStatus := st &&& ~~~(ack &&& s.cfg.irqKnown) } ∧
      t = { s with
        lock := .free
        ifV := false
        curV := false
        q := q'
        ctl := t.ctl
        answers := t.answers
        draws := t.draws
        history := s.history ++ [.regRead .irqStatus st, .regWrite .irqStatus ack] ++ reads
          ++ [.done (snapshotOf q')]
          ++ (if stBit st s.cfg.st.dataEnd = true then [.log .desyncDend] else []) }

/-- R150, R154, R159, R161, R163: a batch with a request in flight, no hotplug event, and no error or a
command timeout is, under the lock, the acknowledge, then ERRCLASS, PUMP, RESPCAP and DATAEND in that order,
each run on the state the one before left and on the one snapshot: what is stated of each of them alone is
stated of the batch. -/
def Obligations.BatchRunsHandlersInFixedOrder : Prop :=
  ∀ s : State, s.ifV = true →
    let st := regValue .irqStatus s
    let ack := truncToReg s.cfg .irqStatus (ackSet s.cfg st)
    hotplugEvent s.cfg st = false → (classify s.cfg st = .noError ∨ classify s.cfg st = .timeout) →
    ∃ s1 s2 s3 s4 : State,
      exec (.errclass st) { consumeAnswer s with
        lock := .held
        ctl := { s.ctl with irqStatus := st &&& ~~~(ack &&& s.cfg.irqKnown) }
        history := s.history ++ [.regRead .irqStatus st, .regWrite .irqStatus ack] } = .next s1 ∧
      exec .pump s1 = .next s2 ∧
      exec (.respcap st) s2 = .next s3 ∧
      exec (.dataend st) s3 = .next s4 ∧
      exec .irq s = .next { s4 with lock := .free }

/-- R154, R155, R157 (the abstract reset, the fresh re-read and the order of the notifications are the
spec's own decisions D20, D21, D30): a batch with an insertion or removal bit runs HOTPLUG and nothing else,
whatever other bits it shows: reset, presence re-read, and, with the card gone and a request in flight,
completion with `E_NOMEDIUM` over any earlier error; with the card present the request stays in flight;
`N_CARD` comes last. Nothing is said of the controller's registers, which the reset leaves unspecified. That
the re-read comes after fifteen free values are drawn (log 9) and that an emptied slot's latch file and
cursor position keep their values (log 24) is the model's choice. -/
def Obligations.HotplugBatchIsExclusive : Prop :=
  ∀ s : State, s.cfg.Valid →
    let st := regValue .irqStatus s
    let ack := truncToReg s.cfg .irqStatus (ackSet s.cfg st)
    let st2 := regValue .irqStatus { consumeAnswer s with draws := (consumeAnswer s).draws + 15 }
    let gone := s.ifV = true ∧ stBit st2 s.cfg.st.present = false
    hotplugEvent s.cfg st = true →
    ∃ t : State, exec .irq s = .next t ∧
      t.history = s.history ++ [.regRead .irqStatus st, .regWrite .irqStatus ack, .hwReset,
          .regRead .irqStatus st2]
        ++ (if gone then [.done (snapshotOf { s.q with err := s.cfg.err.noMedium })] else [])
        ++ [.card] ∧
      t.ifV = (s.ifV && stBit st2 s.cfg.st.present) ∧
      t.curV = (if gone then false else s.curV) ∧
      t.q = (if gone then { s.q with err := s.cfg.err.noMedium } else s.q) ∧
      t.curI = s.curI ∧ t.curO = s.curO ∧ t.sdioEn = s.sdioEn ∧ t.fault = s.fault ∧ t.cfg = s.cfg ∧
      t.lock = .free ∧ t.inputs = s.inputs ∧ t.calls = s.calls ∧ t.fresh = s.fresh ∧
      ∀ a, Memory.read t.mem a = Memory.read s.mem a

/-- R155 (the spec's own decisions D20, D21, D30): HOTPLUG, the same effect without the batch around it.
That the re-read comes after fifteen free values are drawn (log 9) and that an emptied slot's latch file and
cursor position keep their values (log 24) is the model's choice. -/
def Obligations.HotplugResetsAndReportsTheCard : Prop :=
  ∀ s : State, s.cfg.Valid →
    let st2 := regValue .irqStatus { s with draws := s.draws + 15 }
    let gone := s.ifV = true ∧ stBit st2 s.cfg.st.present = false
    ∃ t : State, exec .hotplug s = .next t ∧
      t.history = s.history ++ [.hwReset, .regRead .irqStatus st2]
        ++ (if gone then [.done (snapshotOf { s.q with err := s.cfg.err.noMedium })] else [])
        ++ [.card] ∧
      t.ifV = (s.ifV && stBit st2 s.cfg.st.present) ∧
      t.curV = (if gone then false else s.curV) ∧
      t.q = (if gone then { s.q with err := s.cfg.err.noMedium } else s.q) ∧
      t.curI = s.curI ∧ t.curO = s.curO ∧ t.sdioEn = s.sdioEn ∧ t.fault = s.fault ∧ t.cfg = s.cfg ∧
      t.lock = s.lock ∧ t.inputs = s.inputs ∧ t.calls = s.calls ∧ t.fresh = s.fresh ∧
      ∀ a, Memory.read t.mem a = Memory.read s.mem a

/-- R156 (the spec's own decision D20): the hardware reset is one event and changes no state of the
sequencer; nothing is said of the controller's registers. -/
def Obligations.HardwareResetKeepsSequencerState : Prop :=
  ∀ s : State, ∃ t, exec .hwreset s = .next t ∧ t.history = s.history ++ [.hwReset] ∧
    t.ifV = s.ifV ∧ t.q = s.q ∧ t.curV = s.curV ∧ t.curI = s.curI ∧ t.curO = s.curO ∧
    t.sdioEn = s.sdioEn ∧ t.fault = s.fault ∧ t.lock = s.lock ∧ t.cfg = s.cfg ∧ t.inputs = s.inputs ∧
    t.calls = s.calls ∧ t.answers = s.answers ∧ t.fresh = s.fresh ∧
    ∀ a, Memory.read t.mem a = Memory.read s.mem a

/-- R159, R220 (that it is a chain is the spec's own decision D22): command timeout wins over CRC failure,
which wins over the six other error bits; with none set there is no error. -/
def Obligations.ClassificationFollowsThePriorityChain : Prop :=
  ∀ (c : Cfg) (st : Word), c.Valid →
    classify c st =
      (if stBit st c.st.cmdTimeout = true then .timeout
       else if stBit st c.st.crcFail = true then .dataIntegrity
       else if stBit st c.st.badCmd = true ∨ stBit st c.st.stopBit = true ∨ stBit st c.st.dataTimeout = true
          ∨ stBit st c.st.rxOverflow = true ∨ stBit st c.st.txUnderrun = true
          ∨ stBit st c.st.illAccess = true then .io
       else .noError)

/-- R159, R160 (the chain is the spec's own decision D22): ERRCLASS with a request in flight and no hotplug
event: the classified error is attached to the command (an unclassified batch leaves the recorded one), the
raw bits are logged for an I/O error alone, and nothing else changes, the transfer's error slot included.
That by itself in any other state, where IRQ does not select it (R92, R157, R158), it does nothing is the
model's choice (log 15). -/
def Obligations.ErrclassAttachesTheClassifiedError : Prop :=
  ∀ (s : State) (st : Word), s.cfg.Valid →
    (s.ifV = true → hotplugEvent s.cfg st = false →
      exec (.errclass st) s = .next { s with
        q := { s.q with err := match classify s.cfg st with
          | .noError => s.q.err
          | .timeout => s.cfg.err.timeout
          | .dataIntegrity => s.cfg.err.dataIntegrity
          | .io => s.cfg.err.io }
        history := s.history ++ (if classify s.cfg st = .io
          then [.log (.ioErrBits (st &&& s.cfg.errGroup))] else []) }) ∧
    (s.ifV = false ∨ hotplugEvent s.cfg st = true → exec (.errclass st) s = .next s)

/-- R152, R153 (the spec's own decisions D8, D13): whatever the snapshot and the acknowledge mode, the
acknowledge names recognised event bits only, in snapshot mode only bits that were seen, and never a level
bit. -/
def Obligations.AcknowledgeNamesOnlyEventBits : Prop :=
  ∀ (c : Cfg) (st : Word), c.Valid →
    (∀ n, n < 32 → (ackSet c st).getLsbD n = true →
      n ∈ [c.st.respEnd.val, c.st.dataEnd.val, c.st.remove.val, c.st.insert.val, c.st.badCmd.val,
        c.st.crcFail.val, c.st.stopBit.val, c.st.dataTimeout.val, c.st.rxOverflow.val, c.st.txUnderrun.val,
        c.st.cmdTimeout.val, c.st.rxRdy.val, c.st.txRq.val, c.st.illAccess.val]) ∧
    (c.ackMode = .snapshot → ∀ n, (ackSet c st).getLsbD n = true → st.getLsbD n = true) ∧
    stBit (ackSet c st) c.st.present = false ∧ stBit (ackSet c st) c.st.wp = false

/-- R102, R103, R118: the five groups of status bits (hotplug, response-ready, data-ready, data-end, error)
share no bit, in every legal configuration. -/
def Obligations.StatusGroupsShareNoBit : Prop :=
  ∀ c : Cfg, c.Valid →
    [bitMask c.st.insert ||| bitMask c.st.remove ||| bitMask c.st.present, bitMask c.st.respEnd, c.dataRdy,
      bitMask c.st.dataEnd, c.errGroup].Pairwise fun a b => a &&& b = 0#32

/-! ### PUMP -/

/-- R171, R172: with no request in flight, or one without data, PUMP makes no access and changes nothing;
for a transfer whose direction's ready flag is clear it makes one `STATUS2` read and nothing else, the other
direction's flag being ignored. -/
def Obligations.PumpNotTriggeredOrNotReadyIsNoOp : Prop :=
  ∀ s : State,
    (s.ifV = false ∨ s.q.hasData = false → exec .pump s = .next s) ∧
    (s.ifV = true → s.q.hasData = true →
      (regValue .status2 s).getLsbD (if s.q.dir = true then s.cfg.s2.rxRdy.val else s.cfg.s2.txNf.val)
        = false →
      exec .pump s = .next { consumeAnswer s with
        ctl := { s.ctl with status2 := regValue .status2 s }
        history := s.history ++ [.regRead .status2 (regValue .status2 s)] })

/-- R174 with R173 (the advance is the spec's own decision D27): a ready PUMP with every segment from the
cursor on consumed moves the cursor to the end of the list and makes no further access; with the cursor at
the end already it keeps it there. -/
def Obligations.PumpWithListExhaustedMovesNothing : Prop :=
  ∀ s : State, s.ifV = true → s.q.hasData = true →
    (regValue .status2 s).getLsbD (if s.q.dir = true then s.cfg.s2.rxRdy.val else s.cfg.s2.txNf.val)
      = true →
    ((∃ g, s.q.segs[s.curI]? = some g ∧ g.len.toNat ≤ s.curO.toNat) →
     (∀ j g, s.curI < j → s.q.segs[j]? = some g → g.len = 0#32) →
      exec .pump s = .next { consumeAnswer s with
        curI := s.q.segs.length
        curO := 0#32
        ctl := { s.ctl with status2 := regValue .status2 s }
        history := s.history ++ [.regRead .status2 (regValue .status2 s)] }) ∧
    (s.q.segs.length ≤ s.curI →
      exec .pump s = .next { consumeAnswer s with
        ctl := { s.ctl with status2 := regValue .status2 s }
        history := s.history ++ [.regRead .status2 (regValue .status2 s)] })

/-- R173, R175, R176, R66 (word counts, byte order and the advance are the spec's own decisions D25, D26,
D27): a ready PUMP of a read transfer. `i` is the first segment from the cursor on that is not consumed, `o`
the offset in it, `len` the lesser of what remains of it and one block. The words the FIFO answers stand in
scatter memory at ascending addresses from the cursor's, the bytes are marked consumed, every byte outside
the words stored reads as before, the answers used up are the flag's and the words', and no other state of
the sequencer changes. -/
def Obligations.PumpReadStoresFifoWords : Prop :=
  ∀ (s : State) (i : Nat) (o : Word) (g : Segment), Memory.wf s.mem →
    s.ifV = true → s.q.hasData = true → s.q.dir = true →
    (regValue .status2 s).getLsbD s.cfg.s2.rxRdy.val = true →
    s.q.segs[i]? = some g → o.toNat < g.len.toNat →
    (i = s.curI ∧ o = s.curO ∨
     s.curI < i ∧ o = 0#32 ∧ (∃ h, s.q.segs[s.curI]? = some h ∧ h.len.toNat ≤ s.curO.toNat) ∧
       ∀ j h, s.curI < j → j < i → s.q.segs[j]? = some h → h.len = 0#32) →
    let len := min (g.len.toNat - o.toNat) s.q.blksz.toNat
    let a : MemAddr := { handle := g.handle, off := g.off + o }
    ∃ t, exec .pump s = .next t ∧
      (∀ k < len / 4, t.mem.readWord (a.plus (4 * k)) = answerAt (k + 1) s) ∧
      (∀ x, (∀ n < 4 * (len / 4), x ≠ (a.plus n).key) → Memory.read t.mem x = Memory.read s.mem x) ∧
      t.history = s.history ++ .regRead .status2 (regValue .status2 s) ::
        ((List.range (len / 4)).flatMap fun k =>
          [.fifoRead (answerAt (k + 1) s), .memWrite (a.plus (4 * k)) (answerAt (k + 1) s)]) ∧
      t.curI = i ∧ t.curO.toNat = o.toNat + len ∧ t.curV = s.curV ∧ t.ifV = s.ifV ∧ t.q = s.q ∧
      t.sdioEn = s.sdioEn ∧ t.fault = s.fault ∧ t.lock = s.lock ∧ t.cfg = s.cfg ∧
      t.inputs = s.inputs ∧ t.calls = s.calls ∧ t.fresh = s.fresh ∧
      (∀ n, answerAt n t = answerAt (n + len / 4 + 1) s) ∧
      { t.ctl with status2 := s.ctl.status2, fifo := s.ctl.fifo } = s.ctl

/-- R173, R175, R176, R66 (the spec's own decisions D25, D26, D27): a ready PUMP of a write transfer: the
words of scatter memory go to the FIFO in ascending address order, memory is never written, and only the
cursor and the two registers accessed change. -/
def Obligations.PumpWriteSendsMemoryWords : Prop :=
  ∀ (s : State) (i : Nat) (o : Word) (g : Segment),
    s.ifV = true → s.q.hasData = true → s.q.dir = false →
    (regValue .status2 s).getLsbD s.cfg.s2.txNf.val = true →
    s.q.segs[i]? = some g → o.toNat < g.len.toNat →
    (i = s.curI ∧ o = s.curO ∨
     s.curI < i ∧ o = 0#32 ∧ (∃ h, s.q.segs[s.curI]? = some h ∧ h.len.toNat ≤ s.curO.toNat) ∧
       ∀ j h, s.curI < j → j < i → s.q.segs[j]? = some h → h.len = 0#32) →
    let len := min (g.len.toNat - o.toNat) s.q.blksz.toNat
    let a : MemAddr := { handle := g.handle, off := g.off + o }
    ∃ t, exec .pump s = .next t ∧ t.mem = s.mem ∧
      t.history = s.history ++ .regRead .status2 (regValue .status2 s) ::
        ((List.range (len / 4)).flatMap fun k =>
          [.memRead (a.plus (4 * k)) (s.mem.readWord (a.plus (4 * k))),
           .fifoWrite (s.mem.readWord (a.plus (4 * k)))]) ∧
      t.curI = i ∧ t.curO.toNat = o.toNat + len ∧ t.curV = s.curV ∧ t.ifV = s.ifV ∧ t.q = s.q ∧
      t.sdioEn = s.sdioEn ∧ t.fault = s.fault ∧ t.lock = s.lock ∧ t.cfg = s.cfg ∧
      t.inputs = s.inputs ∧ t.calls = s.calls ∧ t.fresh = s.fresh ∧
      t.answers = s.answers.tail ∧ (∀ n, answerAt n t = answerAt (n + 1) s) ∧
      { t.ctl with status2 := s.ctl.status2, fifo := s.ctl.fifo } = s.ctl

/-- R66 (the spec's own decision D26): a word of scatter memory and its four bytes are related
little-endian: a store puts bits 7:0 at the address and bits 31:24 three bytes on, a read is the inverse,
and every other byte is as before. -/
def Obligations.ScatterWordsAreLittleEndian : Prop :=
  ∀ (m : Memory) (a : MemAddr) (w : Word), Memory.wf m →
    (∀ n < 4, (m.writeWord a w).byteAt (a.plus n) = w.extractLsb' (8 * n) 8) ∧
    (m.writeWord a w).readWord a = w ∧
    (∀ x, (∀ n < 4, x ≠ (a.plus n).key) → Memory.read (m.writeWord a w) x = Memory.read m x) ∧
    (∀ n < 4, (m.readWord a).extractLsb' (8 * n) 8 = m.byteAt (a.plus n)) ∧
    Memory.wf (m.writeWord a w)

/-- R175, R177, R273: under the invariant one PUMP never moves the count of bytes back, moves it by at most
one block, and never past `D_BLOCKS * D_BLKSZ`. -/
def Obligations.PumpMovesAtMostOneBlock : Prop :=
  ∀ s t : State, Inv s → s.curV = true → exec .pump s = .next t →
    movedBytes s ≤ movedBytes t ∧ movedBytes t ≤ movedBytes s + s.q.blksz.toNat ∧
    movedBytes t ≤ s.q.blocks.toNat * s.q.blksz.toNat

/-- R63, R68, R273: under the invariant every scatter-memory access of an interrupt batch is aligned and
lies inside a segment of the request in flight. -/
def Obligations.BatchAccessesStayInsideSegments : Prop :=
  ∀ s t : State, Inv s → exec .irq s = .next t →
    ∃ es, t.history = s.history ++ es ∧
      ∀ e ∈ es, ∀ a, e.memAddr = some a → s.ifV = true ∧ ∃ g ∈ s.q.segs, insideSegment g a

/-! ### RESPCAP -/

/-- R180, R181, R185 (`RESP0` into `Q_RESP0` is the spec's own decision D28): a 32-bit response with or
without busy: one read of `RESP0`, the other words kept; a request without data completes with the error
recorded, one with data stays in flight. That the emptied slot's latch file keeps what the snapshot shows is
the model's choice (log 24). -/
def Obligations.ShortResponseIsCaptured : Prop :=
  ∀ (s : State) (st : Word), s.cfg.Valid → s.ifV = true → stBit st s.cfg.st.respEnd = true →
    (s.q.rk = s.cfg.rk.r32 ∨ s.q.rk = s.cfg.rk.r32b) →
    let w := regValue .resp0 s
    exec (.respcap st) s = .next { consumeAnswer s with
      ifV := s.q.hasData
      curV := if s.q.hasData = true then s.curV else false
      q := { s.q with resp0 := w }
      ctl := { s.ctl with resp0 := w }
      history := s.history ++ [.regRead .resp0 w]
        ++ (if s.q.hasData = true then [] else [.done (snapshotOf { s.q with resp0 := w })]) }

/-- R180, R182, R185 (the read order is the spec's own decision D28): a 136-bit response: the four response
registers are read once each in ascending order, and the latch file takes `Repack136` of the four. That the
emptied slot's latch file keeps what the snapshot shows is the model's choice (log 24). -/
def Obligations.LongResponseIsCapturedAndRepacked : Prop :=
  ∀ (s : State) (st : Word), s.cfg.Valid → s.ifV = true → stBit st s.cfg.st.respEnd = true →
    s.q.rk = s.cfg.rk.r136 →
    let w0 := truncToReg s.cfg .resp0 (answerAt 0 s)
    let w1 := truncToReg s.cfg .resp1 (answerAt 1 s)
    let w2 := truncToReg s.cfg .resp2 (answerAt 2 s)
    let w3 := truncToReg s.cfg .resp3 (answerAt 3 s)
    let r := repack136 s.cfg w0 w1 w2 w3
    let q' : Request := { s.q with resp0 := r.1, resp1 := r.2.1, resp2 := r.2.2.1, resp3 := r.2.2.2 }
    exec (.respcap st) s = .next { consumeAnswer (consumeAnswer (consumeAnswer (consumeAnswer s))) with
      ifV := s.q.hasData
      curV := if s.q.hasData = true then s.curV else false
      q := q'
      ctl := { s.ctl with resp0 := w0, resp1 := w1, resp2 := w2, resp3 := w3 }
      history := s.history
        ++ [.regRead .resp0 w0, .regRead .resp1 w1, .regRead .resp2 w2, .regRead .resp3 w3]
        ++ (if s.q.hasData = true then [] else [.done (snapshotOf q')]) }

/-- R183 (the mapping is the spec's own decision D29): the conventional `Repack136` is one shift of the
whole 128-bit response by 8 bits, most significant word `h3` in and `r0` out. -/
def Obligations.RepackIsOneShiftOfTheWholeResponse : Prop :=
  ∀ (c : Cfg) (h0 h1 h2 h3 : Word), c.repack = .conventional →
    let r := repack136 c h0 h1 h2 h3
    r.1 ++ r.2.1 ++ r.2.2.1 ++ r.2.2.2 = (h3 ++ h2 ++ h1 ++ h0) <<< 8

/-- R180, R184, R185: a request that expects no response, or one of an unrecognised kind (the spec's own
decision D19), reads no register at response-ready; without data it completes, with data it stays in flight.
For the unrecognised kind nothing is said of the response words. That the emptied slot's latch file keeps
what the snapshot shows is the model's choice (log 24). -/
def Obligations.ResponseReadyWithoutRegisterRead : Prop :=
  ∀ (s : State) (st : Word), s.cfg.Valid → s.ifV = true → stBit st s.cfg.st.respEnd = true →
    s.q.rk ≠ s.cfg.rk.r32 → s.q.rk ≠ s.cfg.rk.r136 → s.q.rk ≠ s.cfg.rk.r32b →
    ∃ (t : State) (q' : Request), exec (.respcap st) s = .next t ∧
      (s.q.rk = s.cfg.rk.none → q' = s.q ∧ t.draws = s.draws) ∧
      { q' with resp0 := s.q.resp0, resp1 := s.q.resp1, resp2 := s.q.resp2, resp3 := s.q.resp3 } = s.q ∧
      t = { s with
        ifV := s.q.hasData
        curV := if s.q.hasData = true then s.curV else false
        q := q'
        draws := t.draws
        history := s.history ++ (if s.q.hasData = true then [] else [.done (snapshotOf q')]) }

/-- R180: without the response-ready bit RESPCAP is a no-op; with the bit and no active command it logs the
desynchronisation and does nothing else. -/
def Obligations.ResponseWithoutCommandIsLogged : Prop :=
  ∀ (s : State) (st : Word),
    (stBit st s.cfg.st.respEnd = false → exec (.respcap st) s = .next s) ∧
    (stBit st s.cfg.st.respEnd = true → s.ifV = false →
      exec (.respcap st) s = .next { s with history := s.history ++ [.log .desyncResp] })

/-! ### DATAEND -/

/-- R192, R193, R194, R196 (the error test and the 32-bit product are the spec's own decisions D23, D40):
the end of an active transfer: the byte count is `D_BLOCKS * D_BLKSZ` exactly, whatever was moved, or 0 if
an error was recorded; one write of 0 to `STOP`; completion with the transfer's error code. That the emptied
slot's latch file and the cursor's position keep their values is the model's choice (log 24). -/
def Obligations.DataEndReportsAndCompletes : Prop :=
  ∀ (s : State) (st : Word), s.ifV = true → s.q.hasData = true → stBit st s.cfg.st.dataEnd = true →
    ∃ (t : State) (bytes' : Word), exec (.dataend st) s = .next t ∧
      bytes'.toNat = (if s.q.err = 0#4 ∧ s.q.derr = 0#4 then s.q.blocks.toNat * s.q.blksz.toNat else 0) ∧
      t = { s with
        ifV := false
        curV := false
        q := { s.q with bytes := bytes', err := if s.q.derr = 0#4 then s.q.err else s.q.derr }
        ctl := { s.ctl with stop := 0#32 }
        history := s.history ++ [.regWrite .stop 0#32, .done (snapshotOf
          { s.q with bytes := bytes', err := if s.q.derr = 0#4 then s.q.err else s.q.derr })] }

/-- R190, R191: without the data-end bit DATAEND is a no-op; with the bit and no active transfer it logs the
desynchronisation and does nothing else: no `STOP` write, no completion. -/
def Obligations.SpuriousDataEndIsLogged : Prop :=
  ∀ (s : State) (st : Word),
    (stBit st s.cfg.st.dataEnd = false → exec (.dataend st) s = .next s) ∧
    (stBit st s.cfg.st.dataEnd = true → s.ifV = false ∨ s.q.hasData = false →
      exec (.dataend st) s = .next { s with history := s.history ++ [.log .desyncDend] })

/-! ### Whole-machine rules -/

/-- The invariant holds at reset. -/
def Obligations.InvariantHoldsAtReset : Prop := Safe State.reset

/-- R273, R26, R24, R32, R118: every step from a state that meets the invariant meets it again, whatever is
presented, whatever call of an operation in progress runs, and whatever the controller answers. -/
def Obligations.EveryStepKeepsTheInvariant : Prop :=
  ∀ s t : State, Inv s → step s = .next t → Inv t

/-- R144, R198: completion accounting, one instruction at a time. Over every instruction but ATTACH_RESET
(which forgets the history) the notifications given plus the requests in flight grow by exactly one where a
request is taken from the stack with the slot empty (a SUBMIT row, or the no-card path by itself, log 15)
and by nothing otherwise: no request is notified twice or dropped, and a busy SUBMIT gets no notification.
That a request in flight is ever notified is not said: the controller may never end it (R198, R257). -/
def Obligations.NotificationsPlusInFlightCountAcceptedRequests : Prop :=
  ∀ (s t : State) (i : Instr), i ≠ .attachReset → exec i s = .next t →
    doneCount t + inFlight t
      = doneCount s + inFlight s + (if i.takesRequest = true ∧ s.ifV = false then 1 else 0)

/-- R21, R22: the slot is filled only by a SUBMIT that found it empty. -/
def Obligations.OnlySubmitFillsTheSlot : Prop :=
  ∀ (s t : State) (i : Instr), exec i s = .next t → s.ifV = false → t.ifV = true →
    ∃ req, i.submitted = some req ∧ t.q = req

/-- R227, R31: `FAULT` is set by a SUBMIT with a request in flight and by nothing else, and only
ATTACH_RESET clears it. -/
def Obligations.OnlyBusySubmitSetsFault : Prop :=
  ∀ (s t : State) (i : Instr), exec i s = .next t → i ≠ .attachReset →
    t.fault = (if i.submitted.isSome = true ∧ s.ifV = true then some .busySubmit else s.fault)

/-- R33, R30, R32 (the spec's own decisions D31, D33): no operation writes the configuration; `SDIO_EN` is
written only by SDIO_EN and by reset; every caller operation and interrupt task ends with the lock free. The
rest is the model's choice: a sub-handler or helper leaves the lock, which its caller holds, as it was, and
nothing but reset touches the calls left of an operation in progress (log 15); what is presented (log 2) and
the run flag (log 5) change in the fetch alone. -/
def Obligations.ConfigurationEnableAndLock : Prop :=
  ∀ (s t : State) (i : Instr), exec i s = .next t →
    t.cfg = s.cfg ∧
    (i ≠ .attachReset → (∀ en, i ≠ .sdioEn en) → t.sdioEn = s.sdioEn) ∧
    (i.agent ≠ .sequencer → t.lock = .free) ∧ (i.agent = .sequencer → t.lock = s.lock) ∧
    (i = .attachReset → t.calls = []) ∧ (i ≠ .attachReset → t.calls = s.calls) ∧
    t.inputs = s.inputs ∧ t.fresh = s.fresh

/-- R24: after SUBMIT has loaded it, no operation writes the opcode, argument, kind, direction, sizes,
segment table or the transfer's error slot; the byte count is written by DATAEND alone, the response words
by the capture alone, the command's error field by the error classification and by COMPLETE alone, inside
the operations that run them or by themselves. For a request that an operation completes these are the
fields of an emptied slot, which the model keeps (its choice, log 24). -/
def Obligations.LatchedRequestKeepsItsFields : Prop :=
  ∀ (s t : State) (i : Instr), exec i s = .next t → i ≠ .attachReset →
    (i.submitted.isSome = true → s.ifV = true) →
    t.q.opc = s.q.opc ∧ t.q.arg = s.q.arg ∧ t.q.rk = s.q.rk ∧ t.q.hasData = s.q.hasData ∧
    t.q.dir = s.q.dir ∧ t.q.blksz = s.q.blksz ∧ t.q.blocks = s.q.blocks ∧ t.q.segs = s.q.segs ∧
    t.q.derr = s.q.derr ∧
    (i ≠ .irq → (∀ st, i ≠ .errclass st) → i ≠ .hotplug → (∀ st, i ≠ .dataend st) →
      (∀ e, i ≠ .complete e) → t.q.err = s.q.err) ∧
    (i ≠ .irq → (∀ st, i ≠ .dataend st) → t.q.bytes = s.q.bytes) ∧
    (i ≠ .irq → (∀ st, i ≠ .respcap st) → t.q.resp0 = s.q.resp0 ∧ t.q.resp1 = s.q.resp1 ∧
      t.q.resp2 = s.q.resp2 ∧ t.q.resp3 = s.q.resp3)

/-- R199, R273: a recorded error is never cleared: whatever runs on a request in flight, if an error was
recorded one is still recorded. The rules speak of a request that stays in flight. That `Q_ERR` is nonzero
also in the emptied slot, where the instruction completes the request, is the model's choice (log 24). -/
def Obligations.RecordedErrorIsNeverCleared : Prop :=
  ∀ (s t : State) (i : Instr), s.cfg.Valid → s.ifV = true → s.q.err ≠ 0#4 → i ≠ .attachReset →
    exec i s = .next t → t.q.err ≠ 0#4

/-- R63, R65: scatter memory is written by PUMP alone, inside IRQ or by itself, and by it only for a read
transfer: every other operation leaves every byte as it was. -/
def Obligations.OnlyThePumpStoresToMemory : Prop :=
  ∀ (s t : State) (i : Instr), exec i s = .next t →
    (i ≠ .irq ∧ i ≠ .pump ∨ s.q.dir = false ∨ s.q.hasData = false ∨ s.ifV = false) →
    ∀ a, Memory.read t.mem a = Memory.read s.mem a

/-- R34, R35, R65, R108, R134 (the history is the spec's own decision D38, that nothing touches `IRQ_MASK`
D39, the values of `STOP` D10): but for ATTACH_RESET, an instruction only appends to the event history, and
every event it appends is one the tables of R35 and R65 give it: `legalEvent` says for each kind of event,
and for each register read or written, which instructions emit it. `RESP0..3`, `STATUS2` (R40, R43) and
`IRQ_MASK` (R42) are never written, `CLKCTL` and `OPT` by APPLY alone (R44, R45), `BLKLEN`, `BLKCOUNT`,
`ARG` and `CMD` by SUBMIT alone, and scatter memory and the FIFO are accessed by PUMP alone (R62, R63), in
the direction of the transfer in flight. A sub-handler by itself is held to its own row (log 15). -/
def Obligations.HistoryGrowsByLegalEvents : Prop :=
  ∀ (s t : State) (i : Instr), exec i s = .next t → i ≠ .attachReset →
    ∃ es, t.history = s.history ++ es ∧ ∀ e ∈ es, legalEvent s i e
end

