-- ==== Sys2Proof/Laws/Words.lean ====
section
/-! SUPPORT. Bits of the status masks, the power of two above a divider, the field layout of the composed words,
and that `CFG_REF` meets R118. -/

namespace Sys2Proof

/-! ### Single bits and masks -/

theorem getLsbD_bitMask (i : Fin 32) (n : Nat) : (bitMask i).getLsbD n = decide (n = i.val) := by
  have hi := i.isLt
  unfold bitMask
  by_cases h : n = i.val
  · simp [h]
  · rw [BitVec.getLsbD_shiftLeft, BitVec.getLsbD_one]
    rcases Nat.lt_or_ge n i.val with hlt | hge
    · simp [hlt, h]
    · have : ¬ (n - i.val = 0) := by omega
      simp [this, h]

@[simp] theorem stBit_bitMask (i j : Fin 32) : stBit (bitMask i) j = decide (j = i) := by
  rw [stBit, getLsbD_bitMask]
  exact decide_eq_decide.2 Fin.val_inj

@[simp] theorem stBit_and (a b : Word) (j : Fin 32) : stBit (a &&& b) j = (stBit a j && stBit b j) := by
  simp [stBit]

@[simp] theorem stBit_or (a b : Word) (j : Fin 32) : stBit (a ||| b) j = (stBit a j || stBit b j) := by
  simp [stBit]

@[simp] theorem stBit_not (a : Word) (j : Fin 32) : stBit (~~~a) j = !stBit a j := by simp [stBit]

/-- A masked word is nonzero when a bit of the mask is set in it. -/
theorem and_ne_zero_iff (a b : Word) : (a &&& b != 0#32) = true ↔ ∃ j : Fin 32, stBit a j ∧ stBit b j := by
  constructor
  · intro h
    refine Classical.byContradiction fun hn => ?_
    have hz : a &&& b = 0#32 := by
      ext n hn'
      have := fun hj => hn ⟨⟨n, hn'⟩, hj⟩
      simp only [stBit, BitVec.getLsbD_eq_getElem hn'] at this
      simp only [BitVec.getElem_and, BitVec.getElem_zero]
      cases ha : a[n] <;> simp_all
    simp [hz] at h
  · rintro ⟨j, ha, hb⟩
    simp only [bne_iff_ne, ne_eq]
    intro hz
    have := congrArg (fun v => stBit v j) hz
    simp [ha, hb] at this
    simp [stBit] at this

/-- Two words that share no bit. -/
theorem and_eq_zero_of_bits {a b : Word} (h : ∀ j : Fin 32, stBit a j = true → stBit b j = false) :
    a &&& b = 0#32 := by
  ext n hn
  have := h ⟨n, hn⟩
  simp only [stBit, BitVec.getLsbD_eq_getElem hn] at this
  simp only [BitVec.getElem_and, BitVec.getElem_zero]
  cases ha : a[n] <;> simp_all

/-- The bits of `ERR_GROUP` (R103). -/
theorem stBit_errGroup (c : Cfg) (j : Fin 32) : stBit c.errGroup j = true ↔
    j ∈ [c.st.badCmd, c.st.crcFail, c.st.stopBit, c.st.dataTimeout, c.st.rxOverflow, c.st.txUnderrun,
      c.st.cmdTimeout, c.st.illAccess] := by
  simp [Cfg.errGroup, or_assoc]

/-- The bits of `IRQ_KNOWN` (R104). -/
theorem stBit_irqKnown (c : Cfg) (j : Fin 32) : stBit c.irqKnown j = true ↔
    j ∈ [c.st.respEnd, c.st.dataEnd, c.st.insert, c.st.remove, c.st.badCmd, c.st.crcFail, c.st.stopBit,
      c.st.dataTimeout, c.st.rxOverflow, c.st.txUnderrun, c.st.cmdTimeout, c.st.illAccess, c.st.rxRdy,
      c.st.txRq] := by
  simp [Cfg.irqKnown, Cfg.hotplugEv, Cfg.errGroup, Cfg.dataRdy, or_assoc]

/-- A hotplug event is a set insertion or removal bit (R154). -/
theorem hotplugEvent_iff (c : Cfg) (st : Word) :
    hotplugEvent c st = true ↔ stBit st c.st.insert = true ∨ stBit st c.st.remove = true := by
  rw [hotplugEvent, and_ne_zero_iff]
  constructor
  · rintro ⟨j, hj, hm⟩
    simp only [Cfg.hotplugEv, stBit_or, stBit_bitMask, Bool.or_eq_true, decide_eq_true_eq] at hm
    rcases hm with rfl | rfl
    · exact .inl hj
    · exact .inr hj
  · rintro (h | h)
    · exact ⟨_, h, by simp [Cfg.hotplugEv]⟩
    · exact ⟨_, h, by simp [Cfg.hotplugEv]⟩

/-! ### The power of two above a divider (R111, R203) -/

/-- `pow2ceil n` is a power of two, not below `n`, and no smaller power of two is. -/
theorem pow2ceil_spec (n : Nat) :
    ∃ k, pow2ceil n = 2 ^ k ∧ n ≤ 2 ^ k ∧ ∀ j, n ≤ 2 ^ j → k ≤ j := by
  unfold pow2ceil
  split
  · exact ⟨0, rfl, by omega, fun j _ => Nat.zero_le j⟩
  · rename_i h
    refine ⟨Nat.log2 (n - 1) + 1, rfl, ?_, fun j hj => ?_⟩
    · have := Nat.lt_log2_self (n := n - 1)
      omega
    · have h1 := Nat.log2_self_le (n := n - 1) (by omega)
      have : 2 ^ Nat.log2 (n - 1) < 2 ^ j := by omega
      exact (Nat.pow_lt_pow_iff_right (by omega)).1 this

/-- The least power of two is the only one. -/
theorem pow2ceil_eq {n k : Nat} (h1 : n ≤ 2 ^ k) (h2 : ∀ j, n ≤ 2 ^ j → k ≤ j) : pow2ceil n = 2 ^ k := by
  obtain ⟨l, hl, hn, hm⟩ := pow2ceil_spec n
  have : l = k := Nat.le_antisymm (hm k h1) (h2 l hn)
  rw [hl, this]

/-! ### Codes -/

/-- The kind a code names, in a legal configuration: each of the four codes names its own (R94, R118). -/
theorem respKind_codes {c : Cfg} (h : [c.rk.none, c.rk.r32, c.rk.r136, c.rk.r32b].Nodup) :
    respKind c c.rk.none = .none ∧ respKind c c.rk.r32 = .r32 ∧ respKind c c.rk.r136 = .r136 ∧
      respKind c c.rk.r32b = .r32b := by
  simp only [List.nodup_cons, List.mem_cons, List.not_mem_nil, or_false, not_or] at h
  obtain ⟨⟨h1, h2, h3⟩, ⟨h4, h5⟩, h6, -⟩ := h
  simp [respKind, Ne.symm h1, Ne.symm h2, Ne.symm h3, Ne.symm h4, Ne.symm h5, Ne.symm h6]

/-- The four error codes of a legal configuration are not `E_NONE` (R96, R118). -/
theorem errs_ne_none {c : Cfg} (h : c.err.codes.Nodup) :
    c.err.noMedium ≠ 0#4 ∧ c.err.timeout ≠ 0#4 ∧ c.err.dataIntegrity ≠ 0#4 ∧ c.err.io ≠ 0#4 := by
  simp only [ErrCfg.codes, eNone, List.nodup_cons, List.mem_cons, List.not_mem_nil, or_false, not_or] at h
  obtain ⟨⟨h1, h2, h3, h4⟩, -⟩ := h
  exact ⟨Ne.symm h1, Ne.symm h2, Ne.symm h3, Ne.symm h4⟩

/-- Every classified error is one of the error codes (R96, R159). -/
theorem code_mem_codes (c : Cfg) (k : ErrClass) : k.code c ∈ c.err.codes := by
  cases k <;> simp [ErrClass.code, ErrCfg.codes]

/-- `CFG_REF` meets R118. -/
theorem Cfg.ref_valid : Cfg.ref.Valid := by
  constructor <;> decide

end Sys2Proof
end

