-- ==== Sys2Proof/Laws/Admission.lean ====
section
/-! SUPPORT. Admission of a request descriptor, each clause as a Prop, and of APPLY's clock request. -/

namespace Sys2Proof

/-- The clauses on a DataTransfer (R28.2, D25, U5). -/
theorem transferDefect_eq_none_iff (c : Cfg) (r : Request) : transferDefect c r = none ↔
    (4 ≤ r.blksz.toNat ∧ r.blksz.toNat % 4 = 0) ∧ r.blocks ≠ 0#16 ∧ (r.nseg ≠ 0 ∧ r.nseg ≤ c.nsegMax) ∧
      (∀ g ∈ r.segs, g.aligned = true) ∧ totalLen r.segs = r.blocks.toNat * r.blksz.toNat ∧
      (∀ g ∈ r.segs, g.inRange = true) ∧ segmentsDisjoint r.segs = true := by
  unfold transferDefect
  by_cases h1 : r.blksz.toNat < 4 ∨ r.blksz.toNat % 4 ≠ 0
  · simp only [if_pos h1, reduceCtorEq, false_iff]
    omega
  by_cases h2 : r.blocks = 0#16
  · simp [if_neg h1, h2]
  by_cases h3 : r.nseg = 0 ∨ c.nsegMax < r.nseg
  · simp only [if_neg h1, if_neg h2, if_pos h3, reduceCtorEq, false_iff]
    omega
  cases h4 : r.segs.all Segment.aligned
  · simp only [if_neg h1, if_neg h2, if_neg h3, Bool.not_false, if_true, reduceCtorEq, false_iff]
    simp only [List.all_eq_false] at h4
    rintro ⟨-, -, -, h, -⟩
    obtain ⟨g, hg, hn⟩ := h4
    exact hn (h g hg)
  by_cases h5 : totalLen r.segs = r.blocks.toNat * r.blksz.toNat
  · cases h6 : r.segs.all Segment.inRange
    · simp only [if_neg h1, if_neg h2, if_neg h3, h5, Bool.not_true, Bool.not_false, Bool.false_eq_true,
        if_true, if_false, reduceCtorEq, false_iff, ne_eq, not_true_eq_false]
      simp only [List.all_eq_false] at h6
      rintro ⟨-, -, -, -, -, h, -⟩
      obtain ⟨g, hg, hn⟩ := h6
      exact hn (h g hg)
    · simp only [if_neg h1, if_neg h2, if_neg h3, h5, Bool.not_true, Bool.false_eq_true, if_false, ne_eq,
        not_true_eq_false]
      simp only [List.all_eq_true] at h4 h6
      cases segmentsDisjoint r.segs
      · simp
      · simp only [Bool.not_true, Bool.false_eq_true, if_false, true_iff]
        refine ⟨by omega, h2, by omega, h4, trivial, h6, trivial⟩
  · simp only [if_neg h1, if_neg h2, if_neg h3, h5, Bool.not_true, Bool.false_eq_true, if_false, ne_eq,
      not_false_eq_true, if_true, reduceCtorEq, false_iff]
    rintro ⟨-, -, -, -, h, -⟩
    exact h

/-- `WF(req)`, clause by clause (R28, R93). -/
theorem requestDefect_eq_none_iff (c : Cfg) (r : Request) : requestDefect c r = none ↔
    (r.opc.toNat < 2 ^ c.width.opc ∧ r.arg.toNat < 2 ^ c.width.arg ∧
      r.blksz.toNat < 2 ^ c.width.blk ∧ r.blocks.toNat < 2 ^ c.width.blk) ∧
    r.err = 0#4 ∧ r.derr = 0#4 ∧ r.bytes = 0#32 ∧ (r.hasData = true → transferDefect c r = none) := by
  unfold requestDefect eNone
  by_cases h1 : 2 ^ c.width.opc ≤ r.opc.toNat
  · simp [h1]
  by_cases h2 : 2 ^ c.width.arg ≤ r.arg.toNat
  · simp [h1, h2]
  by_cases h3 : 2 ^ c.width.blk ≤ r.blksz.toNat ∨ 2 ^ c.width.blk ≤ r.blocks.toNat
  · simp only [if_neg h1, if_neg h2, if_pos h3, reduceCtorEq, false_iff]
    omega
  simp only [if_neg h1, if_neg h2, if_neg h3]
  have h4 : r.opc.toNat < 2 ^ c.width.opc ∧ r.arg.toNat < 2 ^ c.width.arg ∧
      r.blksz.toNat < 2 ^ c.width.blk ∧ r.blocks.toNat < 2 ^ c.width.blk := by omega
  by_cases h5 : r.err = 0#4 <;> by_cases h6 : r.derr = 0#4 <;> by_cases h7 : r.bytes = 0#32 <;>
    cases r.hasData <;> simp [h4, h5, h6, h7]

/-- Two segments are disjoint when, on one handle, no byte offset lies in both. -/
theorem Segment.disjoint_iff (a b : Segment) : a.disjoint b = true ↔
    (a.handle = b.handle → ∀ x : Nat, ¬ (a.off.toNat ≤ x ∧ x < a.off.toNat + a.len.toNat ∧
      b.off.toNat ≤ x ∧ x < b.off.toNat + b.len.toNat)) := by
  have hz (w : Word) : w = 0#32 ↔ w.toNat = 0 :=
    ⟨fun h => by simp [h], fun h => BitVec.eq_of_toNat_eq (by simpa using h)⟩
  simp only [Segment.disjoint, Bool.or_eq_true, bne_iff_ne, beq_iff_eq, decide_eq_true_eq, hz]
  constructor
  · intro h _ x
    omega
  · intro h
    by_cases he : a.handle = b.handle
    · have h1 := h he a.off.toNat
      have h2 := h he b.off.toNat
      omega
    · simp [he]

/-- `segmentsDisjoint` says it of every pair. -/
theorem segmentsDisjoint_iff (l : List Segment) :
    segmentsDisjoint l = true ↔ l.Pairwise fun a b => a.disjoint b = true := by
  induction l with
  | nil => simp [segmentsDisjoint]
  | cons g l ih => rw [List.pairwise_cons, segmentsDisjoint, Bool.and_eq_true, List.all_eq_true, ih]

/-- The clock requests APPLY admits: 0, and those with a power of two at or above the divider whose quarter fits
`CLK_CODE` (R111, U8). -/
theorem applyAdmitted_iff (c : Cfg) (hz : Word) : applyAdmitted c hz = true ↔
    hz = 0#32 ∨ ∃ k : Nat, c.srcClk / hz.toNat ≤ 2 ^ k ∧ 2 ^ k / 4 < 2 ^ c.clk.codeBits := by
  simp only [applyAdmitted, Bool.or_eq_true, beq_iff_eq]
  refine or_congr Iff.rfl ?_
  unfold clockCode
  obtain ⟨k, hk, hle, hmin⟩ := pow2ceil_spec (c.srcClk / hz.toNat)
  simp only [hk]
  constructor
  · intro h
    split at h
    · exact ⟨0, by omega, by simp⟩
    · split at h
      · exact ⟨k, hle, by assumption⟩
      · simp at h
  · rintro ⟨j, hj, hfit⟩
    have := Nat.pow_le_pow_right (n := 2) (by omega) (hmin j hj)
    split
    · rfl
    · rw [if_pos (by omega)]
      rfl

end Sys2Proof
end

