-- ==== Sys2Proof/Laws/Memory.lean ====
section
/-! SUPPORT. The laws of scatter memory: a store is read back, leaves every other byte alone, and keeps the
canonical form; the same for a 4-byte word. -/

namespace Sys2Proof.Machine

namespace Memory

/-- A key below every listed key is unlisted. -/
theorem read_of_lt {m : Memory} {a : Nat} (h : ∀ c ∈ m, a < c.1) : read m a = unlistedByte := by
  induction m with
  | nil => rfl
  | cons c rest ih =>
    have hc : a < c.1 := h c (by simp)
    rw [read, if_neg (by omega)]
    exact ih fun d hd => h d (by simp [hd])

theorem wf_tail {c : Host.Cell} {m : Memory} (h : wf (c :: m)) : wf m :=
  ⟨(List.pairwise_cons.1 h.1).2, fun d hd => h.2 d (by simp [hd])⟩

theorem head_lt {c : Host.Cell} {m : Memory} (h : wf (c :: m)) : ∀ d ∈ m, c.1 < d.1 :=
  (List.pairwise_cons.1 h.1).1

theorem consCell_wf {a : Nat} {b : Byte} {m : Memory} (h : wf m) (hlt : ∀ d ∈ m, a < d.1) :
    wf (consCell a b m) := by
  unfold consCell
  split
  · exact h
  · rename_i hb
    refine ⟨List.pairwise_cons.2 ⟨hlt, h.1⟩, fun d hd => ?_⟩
    rcases List.mem_cons.1 hd with rfl | hd
    · exact hb
    · exact h.2 d hd

theorem read_consCell {a : Nat} {b : Byte} {m : Memory} (hlt : ∀ d ∈ m, a < d.1) (x : Nat) :
    read (consCell a b m) x = if x = a then b else read m x := by
  unfold consCell
  split
  · rename_i hb
    split
    · rename_i hx
      rw [hx, read_of_lt hlt, hb]
    · rfl
  · rw [read]
    by_cases hx : x = a
    · simp [hx]
    · rw [if_neg (fun h => hx h.symm), if_neg hx]

/-- Every key of a memory with a byte stored is the stored one or one that was there. -/
theorem key_of_mem_write {m : Memory} {a : Nat} {b : Byte} {d : Host.Cell} (h : d ∈ write m a b) :
    d.1 = a ∨ ∃ c ∈ m, c.1 = d.1 := by
  induction m with
  | nil =>
    simp only [write, consCell] at h
    split at h <;> simp_all
  | cons c rest ih =>
    obtain ⟨k, v⟩ := c
    simp only [write, consCell] at h
    split at h
    · split at h
      · exact .inr ⟨d, h, rfl⟩
      · rcases List.mem_cons.1 h with rfl | h
        · exact .inl rfl
        · exact .inr ⟨d, h, rfl⟩
    · split at h
      · split at h
        · exact .inr ⟨d, by simp [h], rfl⟩
        · rcases List.mem_cons.1 h with rfl | h
          · exact .inl rfl
          · exact .inr ⟨d, by simp [h], rfl⟩
      · rcases List.mem_cons.1 h with rfl | h
        · exact .inr ⟨(k, v), by simp, rfl⟩
        · rcases ih h with h | ⟨c, hc, hk⟩
          · exact .inl h
          · exact .inr ⟨c, by simp [hc], hk⟩

/-- A store keeps the canonical form. -/
theorem write_wf {m : Memory} (h : wf m) (a : Nat) (b : Byte) : wf (write m a b) := by
  induction m with
  | nil => exact consCell_wf h (by simp)
  | cons c rest ih =>
    obtain ⟨k, v⟩ := c
    have hlt := head_lt h
    simp only [write]
    split
    · rename_i hak
      refine consCell_wf h fun d hd => ?_
      rcases List.mem_cons.1 hd with rfl | hd
      · exact hak
      · exact hak.trans (hlt d hd)
    · split
      · rename_i hak
        exact consCell_wf (wf_tail h) fun d hd => hak ▸ hlt d hd
      · rename_i h1 h2
        have hw := ih (wf_tail h)
        refine ⟨List.pairwise_cons.2 ⟨fun d hd => ?_, hw.1⟩, fun d hd => ?_⟩
        · rcases key_of_mem_write hd with hd | ⟨c, hc, hk⟩
          · simp only [hd]
            omega
          · exact hk ▸ hlt c hc
        · rcases List.mem_cons.1 hd with rfl | hd
          · exact h.2 _ (by simp)
          · exact hw.2 d hd

/-- A read after a store: the byte stored, or the byte that was there. -/
theorem read_write {m : Memory} (h : wf m) (a : Nat) (b : Byte) (x : Nat) :
    read (write m a b) x = if x = a then b else read m x := by
  induction m with
  | nil => exact read_consCell (by simp) x
  | cons c rest ih =>
    obtain ⟨k, v⟩ := c
    have hlt := head_lt h
    simp only [write]
    split
    · rename_i hak
      refine read_consCell (fun d hd => ?_) x
      rcases List.mem_cons.1 hd with rfl | hd
      · exact hak
      · exact hak.trans (hlt d hd)
    · split
      · rename_i hak
        subst hak
        rw [read_consCell hlt, read]
        by_cases hx : x = a
        · simp [hx]
        · rw [if_neg hx, if_neg hx, if_neg (fun e => hx e.symm)]
      · rename_i h1 h2
        rw [read, read, ih (wf_tail h)]
        by_cases hkx : k = x
        · rw [if_pos hkx, if_pos hkx, if_neg (by omega)]
        · rw [if_neg hkx, if_neg hkx]

/-- The canonical form decides a memory: two canonical memories that read alike are equal. -/
theorem eq_of_read_eq {m n : Memory} (hm : wf m) (hn : wf n) (h : ∀ a, read m a = read n a) : m = n := by
  induction m generalizing n with
  | nil =>
    cases n with
    | nil => rfl
    | cons c rest =>
      have := h c.1
      rw [read, read, if_pos rfl] at this
      exact absurd this.symm (hn.2 c (by simp))
  | cons c rest ih =>
    obtain ⟨k, v⟩ := c
    cases n with
    | nil =>
      have := h k
      simp only [read, if_true] at this
      exact absurd this (hm.2 (k, v) (by simp))
    | cons d rest' =>
      obtain ⟨l, w⟩ := d
      have hk : k = l := by
        rcases Nat.lt_trichotomy k l with hl | hl | hl
        · have := h k
          rw [read, if_pos rfl, read_of_lt (m := (l, w) :: rest')] at this
          · exact absurd this (hm.2 (k, v) (by simp))
          · intro e he
            rcases List.mem_cons.1 he with rfl | he
            · exact hl
            · exact hl.trans (head_lt hn e he)
        · exact hl
        · have := h l
          rw [read_of_lt (m := (k, v) :: rest), read, if_pos rfl] at this
          · exact absurd this.symm (hn.2 (l, w) (by simp))
          · intro e he
            rcases List.mem_cons.1 he with rfl | he
            · exact hl
            · exact hl.trans (head_lt hm e he)
      subst hk
      have hv : v = w := by
        have := h k
        simpa [read] using this
      subst hv
      congr 1
      refine ih (wf_tail hm) (wf_tail hn) fun a => ?_
      have := h a
      rw [read, read] at this
      by_cases hka : k = a
      · subst hka
        rw [read_of_lt (head_lt hm), read_of_lt (head_lt hn)]
      · rwa [if_neg hka, if_neg hka] at this

theorem writeWord_wf {m : Memory} (h : wf m) (a : MemAddr) (w : Word) : wf (m.writeWord a w) :=
  write_wf (write_wf (write_wf (write_wf h _ _) _ _) _ _) _ _

end Memory

/-- Keys tell addresses apart. -/
theorem MemAddr.key_inj {a b : MemAddr} (h : a.key = b.key) : a = b := by
  obtain ⟨ha, oa⟩ := a
  obtain ⟨hb, ob⟩ := b
  simp only [key] at h
  have h1 := oa.isLt
  have h2 := ob.isLt
  have : ha = hb := by omega
  subst this
  have : oa.toNat = ob.toNat := by omega
  simp [BitVec.eq_of_toNat_eq this]

theorem MemAddr.key_eq_iff {a b : MemAddr} : a.key = b.key ↔ a = b := ⟨key_inj, fun h => by rw [h]⟩

theorem MemAddr.plus_inj {a : MemAddr} {i j : Nat} (hi : i < 2 ^ 32) (hj : j < 2 ^ 32)
    (h : a.plus i = a.plus j) : i = j := by
  have h1 := congrArg (fun x : MemAddr => x.off.toNat) h
  simp only [plus, BitVec.toNat_add, BitVec.toNat_ofNat] at h1
  have := a.off.isLt
  omega

theorem MemAddr.plus_plus (a : MemAddr) (i j : Nat) : (a.plus i).plus j = a.plus (i + j) := by
  simp [plus, BitVec.ofNat_add, BitVec.add_assoc]

@[simp] theorem MemAddr.plus_zero (a : MemAddr) : a.plus 0 = a := by simp [plus]

namespace Memory

/-- A byte of memory after a word store: one of the word's four bytes, or the byte that was there. -/
theorem read_writeWord {m : Memory} (h : wf m) (a : MemAddr) (w : Word) (x : Nat) :
    read (m.writeWord a w) x =
      if x = (a.plus 3).key then w.extractLsb' 24 8
      else if x = (a.plus 2).key then w.extractLsb' 16 8
      else if x = (a.plus 1).key then w.extractLsb' 8 8
      else if x = (a.plus 0).key then w.extractLsb' 0 8
      else read m x := by
  simp only [writeWord]
  rw [read_write (write_wf (write_wf (write_wf h _ _) _ _) _ _),
    read_write (write_wf (write_wf h _ _) _ _), read_write (write_wf h _ _), read_write h]

/-- Bytes outside the four stored are as before. -/
theorem read_writeWord_other {m : Memory} (h : wf m) (a : MemAddr) (w : Word) {x : Nat}
    (hx : ∀ j < 4, x ≠ (a.plus j).key) : read (m.writeWord a w) x = read m x := by
  rw [read_writeWord h, if_neg (hx 3 (by omega)), if_neg (hx 2 (by omega)), if_neg (hx 1 (by omega)),
    if_neg (hx 0 (by omega))]

theorem extract_append (w : Word) :
    w.extractLsb' 24 8 ++ w.extractLsb' 16 8 ++ w.extractLsb' 8 8 ++ w.extractLsb' 0 8 = w := by
  ext i hi
  simp only [BitVec.getElem_append, BitVec.getElem_extractLsb']
  split
  · simp [BitVec.getLsbD_eq_getElem hi]
  · split
    · rw [BitVec.getLsbD_eq_getElem (by omega)]
      congr 1
      omega
    · split
      · rw [BitVec.getLsbD_eq_getElem (by omega)]
        congr 1
        omega
      · rw [BitVec.getLsbD_eq_getElem (by omega)]
        congr 1
        omega

/-- A word stored is read back. -/
theorem readWord_writeWord {m : Memory} (h : wf m) (a : MemAddr) (w : Word) :
    (m.writeWord a w).readWord a = w := by
  have ne : ∀ i j, i < 4 → j < 4 → i ≠ j → (a.plus i).key ≠ (a.plus j).key := fun i j hi hj hij e =>
    hij (MemAddr.plus_inj (by omega) (by omega) (MemAddr.key_inj e))
  have h3 : read (m.writeWord a w) (a.plus 3).key = w.extractLsb' 24 8 := by
    rw [read_writeWord h, if_pos rfl]
  have h2 : read (m.writeWord a w) (a.plus 2).key = w.extractLsb' 16 8 := by
    rw [read_writeWord h, if_neg (ne 2 3 (by omega) (by omega) (by omega)), if_pos rfl]
  have h1 : read (m.writeWord a w) (a.plus 1).key = w.extractLsb' 8 8 := by
    rw [read_writeWord h, if_neg (ne 1 3 (by omega) (by omega) (by omega)),
      if_neg (ne 1 2 (by omega) (by omega) (by omega)), if_pos rfl]
  have h0 : read (m.writeWord a w) (a.plus 0).key = w.extractLsb' 0 8 := by
    rw [read_writeWord h, if_neg (ne 0 3 (by omega) (by omega) (by omega)),
      if_neg (ne 0 2 (by omega) (by omega) (by omega)), if_neg (ne 0 1 (by omega) (by omega) (by omega)),
      if_pos rfl]
  rw [readWord, byteAt, byteAt, byteAt, byteAt, h3, h2, h1, h0]
  exact extract_append w

/-- A word none of whose bytes is stored to reads as before. -/
theorem readWord_writeWord_other {m : Memory} (h : wf m) {a b : MemAddr} (w : Word)
    (hab : ∀ i < 4, ∀ j < 4, b.plus i ≠ a.plus j) : (m.writeWord a w).readWord b = m.readWord b := by
  have ne : ∀ i < 4, ∀ j < 4, (b.plus i).key ≠ (a.plus j).key := fun i hi j hj e =>
    hab i hi j hj (MemAddr.key_inj e)
  simp only [readWord, byteAt]
  rw [read_writeWord_other h _ _ (ne 3 (by omega)), read_writeWord_other h _ _ (ne 2 (by omega)),
    read_writeWord_other h _ _ (ne 1 (by omega)), read_writeWord_other h _ _ (ne 0 (by omega))]

end Memory

end Sys2Proof.Machine
end

