-- ==== Sys2Proof/Laws/State.lean ====
section
/-! SUPPORT. One lemma per field per update, each true by definition: no later proof unfolds a record update. -/

namespace Sys2Proof.Machine

section FieldLemmas

variable (s : State)

@[simp] theorem acquire_cfg : (acquire s).cfg = s.cfg := rfl
@[simp] theorem acquire_ifV : (acquire s).ifV = s.ifV := rfl
@[simp] theorem acquire_q : (acquire s).q = s.q := rfl
@[simp] theorem acquire_curV : (acquire s).curV = s.curV := rfl
@[simp] theorem acquire_curI : (acquire s).curI = s.curI := rfl
@[simp] theorem acquire_curO : (acquire s).curO = s.curO := rfl
@[simp] theorem acquire_sdioEn : (acquire s).sdioEn = s.sdioEn := rfl
@[simp] theorem acquire_fault : (acquire s).fault = s.fault := rfl
@[simp] theorem acquire_lock : (acquire s).lock = .held := rfl
@[simp] theorem acquire_history : (acquire s).history = s.history := rfl
@[simp] theorem acquire_ctl : (acquire s).ctl = s.ctl := rfl
@[simp] theorem acquire_mem : (acquire s).mem = s.mem := rfl
@[simp] theorem acquire_inputs : (acquire s).inputs = s.inputs := rfl
@[simp] theorem acquire_calls : (acquire s).calls = s.calls := rfl
@[simp] theorem acquire_answers : (acquire s).answers = s.answers := rfl
@[simp] theorem acquire_draws : (acquire s).draws = s.draws := rfl
@[simp] theorem acquire_fresh : (acquire s).fresh = s.fresh := rfl

@[simp] theorem release_cfg : (release s).cfg = s.cfg := rfl
@[simp] theorem release_ifV : (release s).ifV = s.ifV := rfl
@[simp] theorem release_q : (release s).q = s.q := rfl
@[simp] theorem release_curV : (release s).curV = s.curV := rfl
@[simp] theorem release_curI : (release s).curI = s.curI := rfl
@[simp] theorem release_curO : (release s).curO = s.curO := rfl
@[simp] theorem release_sdioEn : (release s).sdioEn = s.sdioEn := rfl
@[simp] theorem release_fault : (release s).fault = s.fault := rfl
@[simp] theorem release_lock : (release s).lock = .free := rfl
@[simp] theorem release_history : (release s).history = s.history := rfl
@[simp] theorem release_ctl : (release s).ctl = s.ctl := rfl
@[simp] theorem release_mem : (release s).mem = s.mem := rfl
@[simp] theorem release_inputs : (release s).inputs = s.inputs := rfl
@[simp] theorem release_calls : (release s).calls = s.calls := rfl
@[simp] theorem release_answers : (release s).answers = s.answers := rfl
@[simp] theorem release_draws : (release s).draws = s.draws := rfl
@[simp] theorem release_fresh : (release s).fresh = s.fresh := rfl

@[simp] theorem emit_cfg (e : Event) : (emit e s).cfg = s.cfg := rfl
@[simp] theorem emit_ifV (e : Event) : (emit e s).ifV = s.ifV := rfl
@[simp] theorem emit_q (e : Event) : (emit e s).q = s.q := rfl
@[simp] theorem emit_curV (e : Event) : (emit e s).curV = s.curV := rfl
@[simp] theorem emit_curI (e : Event) : (emit e s).curI = s.curI := rfl
@[simp] theorem emit_curO (e : Event) : (emit e s).curO = s.curO := rfl
@[simp] theorem emit_sdioEn (e : Event) : (emit e s).sdioEn = s.sdioEn := rfl
@[simp] theorem emit_fault (e : Event) : (emit e s).fault = s.fault := rfl
@[simp] theorem emit_lock (e : Event) : (emit e s).lock = s.lock := rfl
@[simp] theorem emit_history (e : Event) : (emit e s).history = s.history ++ [e] := rfl
@[simp] theorem emit_ctl (e : Event) : (emit e s).ctl = s.ctl := rfl
@[simp] theorem emit_mem (e : Event) : (emit e s).mem = s.mem := rfl
@[simp] theorem emit_inputs (e : Event) : (emit e s).inputs = s.inputs := rfl
@[simp] theorem emit_calls (e : Event) : (emit e s).calls = s.calls := rfl
@[simp] theorem emit_answers (e : Event) : (emit e s).answers = s.answers := rfl
@[simp] theorem emit_draws (e : Event) : (emit e s).draws = s.draws := rfl
@[simp] theorem emit_fresh (e : Event) : (emit e s).fresh = s.fresh := rfl

@[simp] theorem raise_cfg (f : Fault) : (raise f s).cfg = s.cfg := rfl
@[simp] theorem raise_ifV (f : Fault) : (raise f s).ifV = s.ifV := rfl
@[simp] theorem raise_q (f : Fault) : (raise f s).q = s.q := rfl
@[simp] theorem raise_curV (f : Fault) : (raise f s).curV = s.curV := rfl
@[simp] theorem raise_curI (f : Fault) : (raise f s).curI = s.curI := rfl
@[simp] theorem raise_curO (f : Fault) : (raise f s).curO = s.curO := rfl
@[simp] theorem raise_sdioEn (f : Fault) : (raise f s).sdioEn = s.sdioEn := rfl
@[simp] theorem raise_fault (f : Fault) : (raise f s).fault = some f := rfl
@[simp] theorem raise_lock (f : Fault) : (raise f s).lock = s.lock := rfl
@[simp] theorem raise_history (f : Fault) : (raise f s).history = s.history := rfl
@[simp] theorem raise_ctl (f : Fault) : (raise f s).ctl = s.ctl := rfl
@[simp] theorem raise_mem (f : Fault) : (raise f s).mem = s.mem := rfl
@[simp] theorem raise_inputs (f : Fault) : (raise f s).inputs = s.inputs := rfl
@[simp] theorem raise_calls (f : Fault) : (raise f s).calls = s.calls := rfl
@[simp] theorem raise_answers (f : Fault) : (raise f s).answers = s.answers := rfl
@[simp] theorem raise_draws (f : Fault) : (raise f s).draws = s.draws := rfl
@[simp] theorem raise_fresh (f : Fault) : (raise f s).fresh = s.fresh := rfl

@[simp] theorem consumeAnswer_cfg : (consumeAnswer s).cfg = s.cfg := rfl
@[simp] theorem consumeAnswer_ifV : (consumeAnswer s).ifV = s.ifV := rfl
@[simp] theorem consumeAnswer_q : (consumeAnswer s).q = s.q := rfl
@[simp] theorem consumeAnswer_curV : (consumeAnswer s).curV = s.curV := rfl
@[simp] theorem consumeAnswer_curI : (consumeAnswer s).curI = s.curI := rfl
@[simp] theorem consumeAnswer_curO : (consumeAnswer s).curO = s.curO := rfl
@[simp] theorem consumeAnswer_sdioEn : (consumeAnswer s).sdioEn = s.sdioEn := rfl
@[simp] theorem consumeAnswer_fault : (consumeAnswer s).fault = s.fault := rfl
@[simp] theorem consumeAnswer_lock : (consumeAnswer s).lock = s.lock := rfl
@[simp] theorem consumeAnswer_history : (consumeAnswer s).history = s.history := rfl
@[simp] theorem consumeAnswer_ctl : (consumeAnswer s).ctl = s.ctl := rfl
@[simp] theorem consumeAnswer_mem : (consumeAnswer s).mem = s.mem := rfl
@[simp] theorem consumeAnswer_inputs : (consumeAnswer s).inputs = s.inputs := rfl
@[simp] theorem consumeAnswer_calls : (consumeAnswer s).calls = s.calls := rfl
@[simp] theorem consumeAnswer_answers : (consumeAnswer s).answers = s.answers.tail := rfl
@[simp] theorem consumeAnswer_draws : (consumeAnswer s).draws = if s.answers.isEmpty then s.draws + 1 else s.draws := rfl
@[simp] theorem consumeAnswer_fresh : (consumeAnswer s).fresh = s.fresh := rfl

@[simp] theorem regRead_cfg (r : RegName) : (regRead r s).cfg = s.cfg := rfl
@[simp] theorem regRead_ifV (r : RegName) : (regRead r s).ifV = s.ifV := rfl
@[simp] theorem regRead_q (r : RegName) : (regRead r s).q = s.q := rfl
@[simp] theorem regRead_curV (r : RegName) : (regRead r s).curV = s.curV := rfl
@[simp] theorem regRead_curI (r : RegName) : (regRead r s).curI = s.curI := rfl
@[simp] theorem regRead_curO (r : RegName) : (regRead r s).curO = s.curO := rfl
@[simp] theorem regRead_sdioEn (r : RegName) : (regRead r s).sdioEn = s.sdioEn := rfl
@[simp] theorem regRead_fault (r : RegName) : (regRead r s).fault = s.fault := rfl
@[simp] theorem regRead_lock (r : RegName) : (regRead r s).lock = s.lock := rfl
@[simp] theorem regRead_history (r : RegName) : (regRead r s).history = s.history ++ [.regRead r (regValue r s)] := rfl
@[simp] theorem regRead_ctl (r : RegName) : (regRead r s).ctl = s.ctl.set r (regValue r s) := rfl
@[simp] theorem regRead_mem (r : RegName) : (regRead r s).mem = s.mem := rfl
@[simp] theorem regRead_inputs (r : RegName) : (regRead r s).inputs = s.inputs := rfl
@[simp] theorem regRead_calls (r : RegName) : (regRead r s).calls = s.calls := rfl
@[simp] theorem regRead_answers (r : RegName) : (regRead r s).answers = s.answers.tail := rfl
@[simp] theorem regRead_draws (r : RegName) : (regRead r s).draws = if s.answers.isEmpty then s.draws + 1 else s.draws := rfl
@[simp] theorem regRead_fresh (r : RegName) : (regRead r s).fresh = s.fresh := rfl

@[simp] theorem regWrite_cfg (r : RegName) (v : Word) : (regWrite r v s).cfg = s.cfg := rfl
@[simp] theorem regWrite_ifV (r : RegName) (v : Word) : (regWrite r v s).ifV = s.ifV := rfl
@[simp] theorem regWrite_q (r : RegName) (v : Word) : (regWrite r v s).q = s.q := rfl
@[simp] theorem regWrite_curV (r : RegName) (v : Word) : (regWrite r v s).curV = s.curV := rfl
@[simp] theorem regWrite_curI (r : RegName) (v : Word) : (regWrite r v s).curI = s.curI := rfl
@[simp] theorem regWrite_curO (r : RegName) (v : Word) : (regWrite r v s).curO = s.curO := rfl
@[simp] theorem regWrite_sdioEn (r : RegName) (v : Word) : (regWrite r v s).sdioEn = s.sdioEn := rfl
@[simp] theorem regWrite_fault (r : RegName) (v : Word) : (regWrite r v s).fault = s.fault := rfl
@[simp] theorem regWrite_lock (r : RegName) (v : Word) : (regWrite r v s).lock = s.lock := rfl
@[simp] theorem regWrite_history (r : RegName) (v : Word) : (regWrite r v s).history = s.history ++ [.regWrite r (truncToReg s.cfg r v)] := rfl
@[simp] theorem regWrite_ctl (r : RegName) (v : Word) : (regWrite r v s).ctl = s.ctl.accept s.cfg r (truncToReg s.cfg r v) := rfl
@[simp] theorem regWrite_mem (r : RegName) (v : Word) : (regWrite r v s).mem = s.mem := rfl
@[simp] theorem regWrite_inputs (r : RegName) (v : Word) : (regWrite r v s).inputs = s.inputs := rfl
@[simp] theorem regWrite_calls (r : RegName) (v : Word) : (regWrite r v s).calls = s.calls := rfl
@[simp] theorem regWrite_answers (r : RegName) (v : Word) : (regWrite r v s).answers = s.answers := rfl
@[simp] theorem regWrite_draws (r : RegName) (v : Word) : (regWrite r v s).draws = s.draws := rfl
@[simp] theorem regWrite_fresh (r : RegName) (v : Word) : (regWrite r v s).fresh = s.fresh := rfl

@[simp] theorem fifoRead_cfg : (fifoRead s).cfg = s.cfg := rfl
@[simp] theorem fifoRead_ifV : (fifoRead s).ifV = s.ifV := rfl
@[simp] theorem fifoRead_q : (fifoRead s).q = s.q := rfl
@[simp] theorem fifoRead_curV : (fifoRead s).curV = s.curV := rfl
@[simp] theorem fifoRead_curI : (fifoRead s).curI = s.curI := rfl
@[simp] theorem fifoRead_curO : (fifoRead s).curO = s.curO := rfl
@[simp] theorem fifoRead_sdioEn : (fifoRead s).sdioEn = s.sdioEn := rfl
@[simp] theorem fifoRead_fault : (fifoRead s).fault = s.fault := rfl
@[simp] theorem fifoRead_lock : (fifoRead s).lock = s.lock := rfl
@[simp] theorem fifoRead_history : (fifoRead s).history = s.history ++ [.fifoRead (nextAnswer s)] := rfl
@[simp] theorem fifoRead_ctl : (fifoRead s).ctl = { s.ctl with fifo := nextAnswer s } := rfl
@[simp] theorem fifoRead_mem : (fifoRead s).mem = s.mem := rfl
@[simp] theorem fifoRead_inputs : (fifoRead s).inputs = s.inputs := rfl
@[simp] theorem fifoRead_calls : (fifoRead s).calls = s.calls := rfl
@[simp] theorem fifoRead_answers : (fifoRead s).answers = s.answers.tail := rfl
@[simp] theorem fifoRead_draws : (fifoRead s).draws = if s.answers.isEmpty then s.draws + 1 else s.draws := rfl
@[simp] theorem fifoRead_fresh : (fifoRead s).fresh = s.fresh := rfl

@[simp] theorem fifoWrite_cfg (w : Word) : (fifoWrite w s).cfg = s.cfg := rfl
@[simp] theorem fifoWrite_ifV (w : Word) : (fifoWrite w s).ifV = s.ifV := rfl
@[simp] theorem fifoWrite_q (w : Word) : (fifoWrite w s).q = s.q := rfl
@[simp] theorem fifoWrite_curV (w : Word) : (fifoWrite w s).curV = s.curV := rfl
@[simp] theorem fifoWrite_curI (w : Word) : (fifoWrite w s).curI = s.curI := rfl
@[simp] theorem fifoWrite_curO (w : Word) : (fifoWrite w s).curO = s.curO := rfl
@[simp] theorem fifoWrite_sdioEn (w : Word) : (fifoWrite w s).sdioEn = s.sdioEn := rfl
@[simp] theorem fifoWrite_fault (w : Word) : (fifoWrite w s).fault = s.fault := rfl
@[simp] theorem fifoWrite_lock (w : Word) : (fifoWrite w s).lock = s.lock := rfl
@[simp] theorem fifoWrite_history (w : Word) : (fifoWrite w s).history = s.history ++ [.fifoWrite w] := rfl
@[simp] theorem fifoWrite_ctl (w : Word) : (fifoWrite w s).ctl = { s.ctl with fifo := w } := rfl
@[simp] theorem fifoWrite_mem (w : Word) : (fifoWrite w s).mem = s.mem := rfl
@[simp] theorem fifoWrite_inputs (w : Word) : (fifoWrite w s).inputs = s.inputs := rfl
@[simp] theorem fifoWrite_calls (w : Word) : (fifoWrite w s).calls = s.calls := rfl
@[simp] theorem fifoWrite_answers (w : Word) : (fifoWrite w s).answers = s.answers := rfl
@[simp] theorem fifoWrite_draws (w : Word) : (fifoWrite w s).draws = s.draws := rfl
@[simp] theorem fifoWrite_fresh (w : Word) : (fifoWrite w s).fresh = s.fresh := rfl

@[simp] theorem memRead_cfg (a : MemAddr) : (memRead a s).cfg = s.cfg := rfl
@[simp] theorem memRead_ifV (a : MemAddr) : (memRead a s).ifV = s.ifV := rfl
@[simp] theorem memRead_q (a : MemAddr) : (memRead a s).q = s.q := rfl
@[simp] theorem memRead_curV (a : MemAddr) : (memRead a s).curV = s.curV := rfl
@[simp] theorem memRead_curI (a : MemAddr) : (memRead a s).curI = s.curI := rfl
@[simp] theorem memRead_curO (a : MemAddr) : (memRead a s).curO = s.curO := rfl
@[simp] theorem memRead_sdioEn (a : MemAddr) : (memRead a s).sdioEn = s.sdioEn := rfl
@[simp] theorem memRead_fault (a : MemAddr) : (memRead a s).fault = s.fault := rfl
@[simp] theorem memRead_lock (a : MemAddr) : (memRead a s).lock = s.lock := rfl
@[simp] theorem memRead_history (a : MemAddr) : (memRead a s).history = s.history ++ [.memRead a (s.mem.readWord a)] := rfl
@[simp] theorem memRead_ctl (a : MemAddr) : (memRead a s).ctl = s.ctl := rfl
@[simp] theorem memRead_mem (a : MemAddr) : (memRead a s).mem = s.mem := rfl
@[simp] theorem memRead_inputs (a : MemAddr) : (memRead a s).inputs = s.inputs := rfl
@[simp] theorem memRead_calls (a : MemAddr) : (memRead a s).calls = s.calls := rfl
@[simp] theorem memRead_answers (a : MemAddr) : (memRead a s).answers = s.answers := rfl
@[simp] theorem memRead_draws (a : MemAddr) : (memRead a s).draws = s.draws := rfl
@[simp] theorem memRead_fresh (a : MemAddr) : (memRead a s).fresh = s.fresh := rfl

@[simp] theorem memWrite_cfg (a : MemAddr) (w : Word) : (memWrite a w s).cfg = s.cfg := rfl
@[simp] theorem memWrite_ifV (a : MemAddr) (w : Word) : (memWrite a w s).ifV = s.ifV := rfl
@[simp] theorem memWrite_q (a : MemAddr) (w : Word) : (memWrite a w s).q = s.q := rfl
@[simp] theorem memWrite_curV (a : MemAddr) (w : Word) : (memWrite a w s).curV = s.curV := rfl
@[simp] theorem memWrite_curI (a : MemAddr) (w : Word) : (memWrite a w s).curI = s.curI := rfl
@[simp] theorem memWrite_curO (a : MemAddr) (w : Word) : (memWrite a w s).curO = s.curO := rfl
@[simp] theorem memWrite_sdioEn (a : MemAddr) (w : Word) : (memWrite a w s).sdioEn = s.sdioEn := rfl
@[simp] theorem memWrite_fault (a : MemAddr) (w : Word) : (memWrite a w s).fault = s.fault := rfl
@[simp] theorem memWrite_lock (a : MemAddr) (w : Word) : (memWrite a w s).lock = s.lock := rfl
@[simp] theorem memWrite_history (a : MemAddr) (w : Word) : (memWrite a w s).history = s.history ++ [.memWrite a w] := rfl
@[simp] theorem memWrite_ctl (a : MemAddr) (w : Word) : (memWrite a w s).ctl = s.ctl := rfl
@[simp] theorem memWrite_mem (a : MemAddr) (w : Word) : (memWrite a w s).mem = s.mem.writeWord a w := rfl
@[simp] theorem memWrite_inputs (a : MemAddr) (w : Word) : (memWrite a w s).inputs = s.inputs := rfl
@[simp] theorem memWrite_calls (a : MemAddr) (w : Word) : (memWrite a w s).calls = s.calls := rfl
@[simp] theorem memWrite_answers (a : MemAddr) (w : Word) : (memWrite a w s).answers = s.answers := rfl
@[simp] theorem memWrite_draws (a : MemAddr) (w : Word) : (memWrite a w s).draws = s.draws := rfl
@[simp] theorem memWrite_fresh (a : MemAddr) (w : Word) : (memWrite a w s).fresh = s.fresh := rfl

@[simp] theorem hwReset_cfg : (hwReset s).cfg = s.cfg := rfl
@[simp] theorem hwReset_ifV : (hwReset s).ifV = s.ifV := rfl
@[simp] theorem hwReset_q : (hwReset s).q = s.q := rfl
@[simp] theorem hwReset_curV : (hwReset s).curV = s.curV := rfl
@[simp] theorem hwReset_curI : (hwReset s).curI = s.curI := rfl
@[simp] theorem hwReset_curO : (hwReset s).curO = s.curO := rfl
@[simp] theorem hwReset_sdioEn : (hwReset s).sdioEn = s.sdioEn := rfl
@[simp] theorem hwReset_fault : (hwReset s).fault = s.fault := rfl
@[simp] theorem hwReset_lock : (hwReset s).lock = s.lock := rfl
@[simp] theorem hwReset_history : (hwReset s).history = s.history ++ [.hwReset] := rfl
@[simp] theorem hwReset_ctl : (hwReset s).ctl = freeCtl s.cfg s.draws := rfl
@[simp] theorem hwReset_mem : (hwReset s).mem = s.mem := rfl
@[simp] theorem hwReset_inputs : (hwReset s).inputs = s.inputs := rfl
@[simp] theorem hwReset_calls : (hwReset s).calls = s.calls := rfl
@[simp] theorem hwReset_answers : (hwReset s).answers = s.answers := rfl
@[simp] theorem hwReset_draws : (hwReset s).draws = s.draws + 15 := rfl
@[simp] theorem hwReset_fresh : (hwReset s).fresh = s.fresh := rfl

@[simp] theorem latch_cfg (req : Request) : (latch req s).cfg = s.cfg := rfl
@[simp] theorem latch_ifV (req : Request) : (latch req s).ifV = true := rfl
@[simp] theorem latch_q (req : Request) : (latch req s).q = req := rfl
@[simp] theorem latch_curV (req : Request) : (latch req s).curV = s.curV := rfl
@[simp] theorem latch_curI (req : Request) : (latch req s).curI = s.curI := rfl
@[simp] theorem latch_curO (req : Request) : (latch req s).curO = s.curO := rfl
@[simp] theorem latch_sdioEn (req : Request) : (latch req s).sdioEn = s.sdioEn := rfl
@[simp] theorem latch_fault (req : Request) : (latch req s).fault = s.fault := rfl
@[simp] theorem latch_lock (req : Request) : (latch req s).lock = s.lock := rfl
@[simp] theorem latch_history (req : Request) : (latch req s).history = s.history := rfl
@[simp] theorem latch_ctl (req : Request) : (latch req s).ctl = s.ctl := rfl
@[simp] theorem latch_mem (req : Request) : (latch req s).mem = s.mem := rfl
@[simp] theorem latch_inputs (req : Request) : (latch req s).inputs = s.inputs := rfl
@[simp] theorem latch_calls (req : Request) : (latch req s).calls = s.calls := rfl
@[simp] theorem latch_answers (req : Request) : (latch req s).answers = s.answers := rfl
@[simp] theorem latch_draws (req : Request) : (latch req s).draws = s.draws := rfl
@[simp] theorem latch_fresh (req : Request) : (latch req s).fresh = s.fresh := rfl

@[simp] theorem rebuildCursor_cfg : (rebuildCursor s).cfg = s.cfg := rfl
@[simp] theorem rebuildCursor_ifV : (rebuildCursor s).ifV = s.ifV := rfl
@[simp] theorem rebuildCursor_q : (rebuildCursor s).q = s.q := rfl
@[simp] theorem rebuildCursor_curV : (rebuildCursor s).curV = true := rfl
@[simp] theorem rebuildCursor_curI : (rebuildCursor s).curI = 0 := rfl
@[simp] theorem rebuildCursor_curO : (rebuildCursor s).curO = 0 := rfl
@[simp] theorem rebuildCursor_sdioEn : (rebuildCursor s).sdioEn = s.sdioEn := rfl
@[simp] theorem rebuildCursor_fault : (rebuildCursor s).fault = s.fault := rfl
@[simp] theorem rebuildCursor_lock : (rebuildCursor s).lock = s.lock := rfl
@[simp] theorem rebuildCursor_history : (rebuildCursor s).history = s.history := rfl
@[simp] theorem rebuildCursor_ctl : (rebuildCursor s).ctl = s.ctl := rfl
@[simp] theorem rebuildCursor_mem : (rebuildCursor s).mem = s.mem := rfl
@[simp] theorem rebuildCursor_inputs : (rebuildCursor s).inputs = s.inputs := rfl
@[simp] theorem rebuildCursor_calls : (rebuildCursor s).calls = s.calls := rfl
@[simp] theorem rebuildCursor_answers : (rebuildCursor s).answers = s.answers := rfl
@[simp] theorem rebuildCursor_draws : (rebuildCursor s).draws = s.draws := rfl
@[simp] theorem rebuildCursor_fresh : (rebuildCursor s).fresh = s.fresh := rfl

@[simp] theorem advanceCursor_cfg : (advanceCursor s).cfg = s.cfg := rfl
@[simp] theorem advanceCursor_ifV : (advanceCursor s).ifV = s.ifV := rfl
@[simp] theorem advanceCursor_q : (advanceCursor s).q = s.q := rfl
@[simp] theorem advanceCursor_curV : (advanceCursor s).curV = s.curV := rfl
@[simp] theorem advanceCursor_curI : (advanceCursor s).curI = (advanced s).1 := rfl
@[simp] theorem advanceCursor_curO : (advanceCursor s).curO = (advanced s).2 := rfl
@[simp] theorem advanceCursor_sdioEn : (advanceCursor s).sdioEn = s.sdioEn := rfl
@[simp] theorem advanceCursor_fault : (advanceCursor s).fault = s.fault := rfl
@[simp] theorem advanceCursor_lock : (advanceCursor s).lock = s.lock := rfl
@[simp] theorem advanceCursor_history : (advanceCursor s).history = s.history := rfl
@[simp] theorem advanceCursor_ctl : (advanceCursor s).ctl = s.ctl := rfl
@[simp] theorem advanceCursor_mem : (advanceCursor s).mem = s.mem := rfl
@[simp] theorem advanceCursor_inputs : (advanceCursor s).inputs = s.inputs := rfl
@[simp] theorem advanceCursor_calls : (advanceCursor s).calls = s.calls := rfl
@[simp] theorem advanceCursor_answers : (advanceCursor s).answers = s.answers := rfl
@[simp] theorem advanceCursor_draws : (advanceCursor s).draws = s.draws := rfl
@[simp] theorem advanceCursor_fresh : (advanceCursor s).fresh = s.fresh := rfl

@[simp] theorem consume_cfg (len : Nat) : (consume len s).cfg = s.cfg := rfl
@[simp] theorem consume_ifV (len : Nat) : (consume len s).ifV = s.ifV := rfl
@[simp] theorem consume_q (len : Nat) : (consume len s).q = s.q := rfl
@[simp] theorem consume_curV (len : Nat) : (consume len s).curV = s.curV := rfl
@[simp] theorem consume_curI (len : Nat) : (consume len s).curI = s.curI := rfl
@[simp] theorem consume_curO (len : Nat) : (consume len s).curO = BitVec.ofNat 32 (s.curO.toNat + len) := rfl
@[simp] theorem consume_sdioEn (len : Nat) : (consume len s).sdioEn = s.sdioEn := rfl
@[simp] theorem consume_fault (len : Nat) : (consume len s).fault = s.fault := rfl
@[simp] theorem consume_lock (len : Nat) : (consume len s).lock = s.lock := rfl
@[simp] theorem consume_history (len : Nat) : (consume len s).history = s.history := rfl
@[simp] theorem consume_ctl (len : Nat) : (consume len s).ctl = s.ctl := rfl
@[simp] theorem consume_mem (len : Nat) : (consume len s).mem = s.mem := rfl
@[simp] theorem consume_inputs (len : Nat) : (consume len s).inputs = s.inputs := rfl
@[simp] theorem consume_calls (len : Nat) : (consume len s).calls = s.calls := rfl
@[simp] theorem consume_answers (len : Nat) : (consume len s).answers = s.answers := rfl
@[simp] theorem consume_draws (len : Nat) : (consume len s).draws = s.draws := rfl
@[simp] theorem consume_fresh (len : Nat) : (consume len s).fresh = s.fresh := rfl

@[simp] theorem setResp_cfg (w : Word × Word × Word × Word) : (setResp w s).cfg = s.cfg := rfl
@[simp] theorem setResp_ifV (w : Word × Word × Word × Word) : (setResp w s).ifV = s.ifV := rfl
@[simp] theorem setResp_q (w : Word × Word × Word × Word) : (setResp w s).q = { s.q with resp0 := w.1, resp1 := w.2.1, resp2 := w.2.2.1, resp3 := w.2.2.2 } := rfl
@[simp] theorem setResp_curV (w : Word × Word × Word × Word) : (setResp w s).curV = s.curV := rfl
@[simp] theorem setResp_curI (w : Word × Word × Word × Word) : (setResp w s).curI = s.curI := rfl
@[simp] theorem setResp_curO (w : Word × Word × Word × Word) : (setResp w s).curO = s.curO := rfl
@[simp] theorem setResp_sdioEn (w : Word × Word × Word × Word) : (setResp w s).sdioEn = s.sdioEn := rfl
@[simp] theorem setResp_fault (w : Word × Word × Word × Word) : (setResp w s).fault = s.fault := rfl
@[simp] theorem setResp_lock (w : Word × Word × Word × Word) : (setResp w s).lock = s.lock := rfl
@[simp] theorem setResp_history (w : Word × Word × Word × Word) : (setResp w s).history = s.history := rfl
@[simp] theorem setResp_ctl (w : Word × Word × Word × Word) : (setResp w s).ctl = s.ctl := rfl
@[simp] theorem setResp_mem (w : Word × Word × Word × Word) : (setResp w s).mem = s.mem := rfl
@[simp] theorem setResp_inputs (w : Word × Word × Word × Word) : (setResp w s).inputs = s.inputs := rfl
@[simp] theorem setResp_calls (w : Word × Word × Word × Word) : (setResp w s).calls = s.calls := rfl
@[simp] theorem setResp_answers (w : Word × Word × Word × Word) : (setResp w s).answers = s.answers := rfl
@[simp] theorem setResp_draws (w : Word × Word × Word × Word) : (setResp w s).draws = s.draws := rfl
@[simp] theorem setResp_fresh (w : Word × Word × Word × Word) : (setResp w s).fresh = s.fresh := rfl

@[simp] theorem recordBytes_cfg : (recordBytes s).cfg = s.cfg := rfl
@[simp] theorem recordBytes_ifV : (recordBytes s).ifV = s.ifV := rfl
@[simp] theorem recordBytes_q : (recordBytes s).q = { s.q with bytes := reportedBytes s.q } := rfl
@[simp] theorem recordBytes_curV : (recordBytes s).curV = s.curV := rfl
@[simp] theorem recordBytes_curI : (recordBytes s).curI = s.curI := rfl
@[simp] theorem recordBytes_curO : (recordBytes s).curO = s.curO := rfl
@[simp] theorem recordBytes_sdioEn : (recordBytes s).sdioEn = s.sdioEn := rfl
@[simp] theorem recordBytes_fault : (recordBytes s).fault = s.fault := rfl
@[simp] theorem recordBytes_lock : (recordBytes s).lock = s.lock := rfl
@[simp] theorem recordBytes_history : (recordBytes s).history = s.history := rfl
@[simp] theorem recordBytes_ctl : (recordBytes s).ctl = s.ctl := rfl
@[simp] theorem recordBytes_mem : (recordBytes s).mem = s.mem := rfl
@[simp] theorem recordBytes_inputs : (recordBytes s).inputs = s.inputs := rfl
@[simp] theorem recordBytes_calls : (recordBytes s).calls = s.calls := rfl
@[simp] theorem recordBytes_answers : (recordBytes s).answers = s.answers := rfl
@[simp] theorem recordBytes_draws : (recordBytes s).draws = s.draws := rfl
@[simp] theorem recordBytes_fresh : (recordBytes s).fresh = s.fresh := rfl

@[simp] theorem setSdioEn_cfg (en : Bool) : (setSdioEn en s).cfg = s.cfg := rfl
@[simp] theorem setSdioEn_ifV (en : Bool) : (setSdioEn en s).ifV = s.ifV := rfl
@[simp] theorem setSdioEn_q (en : Bool) : (setSdioEn en s).q = s.q := rfl
@[simp] theorem setSdioEn_curV (en : Bool) : (setSdioEn en s).curV = s.curV := rfl
@[simp] theorem setSdioEn_curI (en : Bool) : (setSdioEn en s).curI = s.curI := rfl
@[simp] theorem setSdioEn_curO (en : Bool) : (setSdioEn en s).curO = s.curO := rfl
@[simp] theorem setSdioEn_sdioEn (en : Bool) : (setSdioEn en s).sdioEn = en := rfl
@[simp] theorem setSdioEn_fault (en : Bool) : (setSdioEn en s).fault = s.fault := rfl
@[simp] theorem setSdioEn_lock (en : Bool) : (setSdioEn en s).lock = s.lock := rfl
@[simp] theorem setSdioEn_history (en : Bool) : (setSdioEn en s).history = s.history := rfl
@[simp] theorem setSdioEn_ctl (en : Bool) : (setSdioEn en s).ctl = s.ctl := rfl
@[simp] theorem setSdioEn_mem (en : Bool) : (setSdioEn en s).mem = s.mem := rfl
@[simp] theorem setSdioEn_inputs (en : Bool) : (setSdioEn en s).inputs = s.inputs := rfl
@[simp] theorem setSdioEn_calls (en : Bool) : (setSdioEn en s).calls = s.calls := rfl
@[simp] theorem setSdioEn_answers (en : Bool) : (setSdioEn en s).answers = s.answers := rfl
@[simp] theorem setSdioEn_draws (en : Bool) : (setSdioEn en s).draws = s.draws := rfl
@[simp] theorem setSdioEn_fresh (en : Bool) : (setSdioEn en s).fresh = s.fresh := rfl

@[simp] theorem takeInput_cfg : (takeInput s).cfg = s.cfg := rfl
@[simp] theorem takeInput_ifV : (takeInput s).ifV = s.ifV := rfl
@[simp] theorem takeInput_q : (takeInput s).q = s.q := rfl
@[simp] theorem takeInput_curV : (takeInput s).curV = s.curV := rfl
@[simp] theorem takeInput_curI : (takeInput s).curI = s.curI := rfl
@[simp] theorem takeInput_curO : (takeInput s).curO = s.curO := rfl
@[simp] theorem takeInput_sdioEn : (takeInput s).sdioEn = s.sdioEn := rfl
@[simp] theorem takeInput_fault : (takeInput s).fault = s.fault := rfl
@[simp] theorem takeInput_lock : (takeInput s).lock = s.lock := rfl
@[simp] theorem takeInput_history : (takeInput s).history = s.history := rfl
@[simp] theorem takeInput_ctl : (takeInput s).ctl = s.ctl := rfl
@[simp] theorem takeInput_mem : (takeInput s).mem = s.mem := rfl
@[simp] theorem takeInput_inputs : (takeInput s).inputs = s.inputs.tail := rfl
@[simp] theorem takeInput_calls : (takeInput s).calls = s.calls := rfl
@[simp] theorem takeInput_answers : (takeInput s).answers = s.answers := rfl
@[simp] theorem takeInput_draws : (takeInput s).draws = s.draws := rfl
@[simp] theorem takeInput_fresh : (takeInput s).fresh = false := rfl

@[simp] theorem takeCall_cfg : (takeCall s).cfg = s.cfg := rfl
@[simp] theorem takeCall_ifV : (takeCall s).ifV = s.ifV := rfl
@[simp] theorem takeCall_q : (takeCall s).q = s.q := rfl
@[simp] theorem takeCall_curV : (takeCall s).curV = s.curV := rfl
@[simp] theorem takeCall_curI : (takeCall s).curI = s.curI := rfl
@[simp] theorem takeCall_curO : (takeCall s).curO = s.curO := rfl
@[simp] theorem takeCall_sdioEn : (takeCall s).sdioEn = s.sdioEn := rfl
@[simp] theorem takeCall_fault : (takeCall s).fault = s.fault := rfl
@[simp] theorem takeCall_lock : (takeCall s).lock = s.lock := rfl
@[simp] theorem takeCall_history : (takeCall s).history = s.history := rfl
@[simp] theorem takeCall_ctl : (takeCall s).ctl = s.ctl := rfl
@[simp] theorem takeCall_mem : (takeCall s).mem = s.mem := rfl
@[simp] theorem takeCall_inputs : (takeCall s).inputs = s.inputs := rfl
@[simp] theorem takeCall_calls : (takeCall s).calls = s.calls.tail := rfl
@[simp] theorem takeCall_answers : (takeCall s).answers = s.answers := rfl
@[simp] theorem takeCall_draws : (takeCall s).draws = s.draws := rfl
@[simp] theorem takeCall_fresh : (takeCall s).fresh = false := rfl

end FieldLemmas

end Sys2Proof.Machine
end

