-- ==== Sys2Proof/Laws/Ops.lean ====
section
/-! SUPPORT. The spec lemmas of the shared operations: what each read gives, what each can do, which rows share one
meaning, and the relation "appends only such events" with its closure lemmas. -/

namespace Sys2Proof.Machine

/-! ### Reads and writes at a register's width -/

/-- Truncating twice is truncating once (R8). -/
@[simp] theorem truncToReg_truncToReg (c : Cfg) (r : RegName) (v : Word) :
    truncToReg c r (truncToReg c r v) = truncToReg c r v := by
  unfold truncToReg
  ext i hi
  simp only [BitVec.getElem_setWidth, BitVec.getLsbD_setWidth]
  cases decide (i < regWidth c r) <;> simp [hi]

@[simp] theorem truncToReg_zero (c : Cfg) (r : RegName) : truncToReg c r 0#32 = 0#32 := by simp [truncToReg]

/-- A value of at most 16 significant bits is written whole to a register of 16 bits or more. -/
theorem truncToReg_half {c : Cfg} {r : RegName} (h : 16 ≤ regWidth c r) (v : Half) :
    truncToReg c r (v.setWidth 32) = v.setWidth 32 := by
  unfold truncToReg
  ext i hi
  simp only [BitVec.getElem_setWidth, BitVec.getLsbD_setWidth]
  rcases Nat.lt_or_ge i 16 with h' | h'
  · simp [hi, show i < regWidth c r by omega]
  · simp [BitVec.getLsbD_of_ge v i h']

/-- A register of 32 bits takes and gives every word whole. -/
theorem truncToReg_word {c : Cfg} {r : RegName} (h : 32 ≤ regWidth c r) (v : Word) : truncToReg c r v = v := by
  unfold truncToReg
  ext i hi
  simp [BitVec.getLsbD_eq_getElem hi, show i < regWidth c r by omega]

/-- What a read gives depends on the configuration, the script and the draw counter alone. -/
theorem regValue_congr {s t : State} (hc : t.cfg = s.cfg) (ha : t.answers = s.answers)
    (hd : t.draws = s.draws) (r : RegName) : regValue r t = regValue r s := by
  simp [regValue, nextAnswer, hc, ha, hd]

@[simp] theorem regValue_acquire (r : RegName) (s : State) : regValue r (acquire s) = regValue r s := rfl
@[simp] theorem regValue_emit (r : RegName) (e : Event) (s : State) :
    regValue r (emit e s) = regValue r s := rfl
@[simp] theorem regValue_regWrite (r q : RegName) (v : Word) (s : State) :
    regValue r (regWrite q v s) = regValue r s := rfl
@[simp] theorem regValue_regRead (r q : RegName) (s : State) :
    regValue r (regRead q s) = truncToReg s.cfg r (nextAnswer (consumeAnswer s)) := rfl

/-- The next answer depends on the script and the draw counter alone. -/
theorem nextAnswer_congr {s t : State} (ha : t.answers = s.answers) (hd : t.draws = s.draws) :
    nextAnswer t = nextAnswer s := by simp [nextAnswer, ha, hd]

@[simp] theorem nextAnswer_acquire (s : State) : nextAnswer (acquire s) = nextAnswer s := rfl
@[simp] theorem nextAnswer_emit (e : Event) (s : State) : nextAnswer (emit e s) = nextAnswer s := rfl
@[simp] theorem nextAnswer_regWrite (r : RegName) (v : Word) (s : State) :
    nextAnswer (regWrite r v s) = nextAnswer s := rfl
@[simp] theorem nextAnswer_regRead (r : RegName) (s : State) :
    nextAnswer (regRead r s) = nextAnswer (consumeAnswer s) := rfl
@[simp] theorem nextAnswer_memWrite (a : MemAddr) (w : Word) (s : State) :
    nextAnswer (memWrite a w s) = nextAnswer s := rfl
@[simp] theorem nextAnswer_fifoRead (s : State) :
    nextAnswer (fifoRead s) = nextAnswer (consumeAnswer s) := rfl

/-! ### Completion -/

theorem completeOp_of_empty {s : State} (e : BitVec 4) (h : s.ifV = false) : completeOp e s = s := by
  simp [completeOp, h]

/-- COMPLETE with a request in flight, in one record. -/
theorem completeOp_of_inFlight {s : State} (e : BitVec 4) (h : s.ifV = true) :
    completeOp e s = { s with
      ifV := false
      curV := false
      q := { s.q with err := if e = 0#4 then s.q.err else e }
      history := s.history ++ [.done (snapshotOf { s.q with err := if e = 0#4 then s.q.err else e })] } := by
  unfold completeOp attachError eNone
  rw [if_pos h]
  split <;> rfl

/-- Attaching an error touches `Q_ERR` alone. -/
theorem attachError_eq (e : BitVec 4) (s : State) :
    attachError e s = { s with q := { s.q with err := if e = 0#4 then s.q.err else e } } := by
  unfold attachError eNone
  split <;> rfl

/-! ### Rows that share one meaning -/

/-- The five SUBMIT rows run one operation (R100). -/
theorem exec_submitted {i : Instr} {req : Request} (h : i.submitted = some req) (s : State) :
    exec i s = submitOp req s := by
  cases i <;> simp only [Instr.submitted, Option.some.injEq, reduceCtorEq] at h <;> subst h <;> rfl

theorem submitOp_of_wellFormed {s : State} {req : Request} (h : requestDefect s.cfg req = none) :
    submitOp req s = .next (release (submitBody req (acquire s))) := by simp [submitOp, h]

theorem submitOp_of_defect {s : State} {req : Request} {d : RequestDefect}
    (h : requestDefect s.cfg req = some d) : submitOp req s = .refused (.illFormedRequest d) := by
  simp [submitOp, h]

/-- What a SUBMIT that takes a step did. -/
theorem submitOp_next {s t : State} {req : Request} (h : submitOp req s = .next t) :
    requestDefect s.cfg req = none ∧ t = release (submitBody req (acquire s)) := by
  unfold submitOp at h
  split at h
  · cases h
  · rename_i hd
    exact ⟨hd, by injection h with h; exact h.symm⟩

/-- What an APPLY that takes a step did. -/
theorem execApply_next {s t : State} {hz : Word} {width : BitVec 8} {off : Bool}
    (h : execApply hz width off s = .next t) :
    ∃ clk, clkWord s.cfg hz off = some clk ∧
      (optWord s.cfg width = none ∧ t = release (emit (.log (.configWidth width)) (acquire s)) ∨
        ∃ opt, optWord s.cfg width = some opt ∧ t = release (applyWrites clk opt (acquire s))) := by
  unfold execApply at h
  split at h
  · cases h
  · rename_i clk hc
    refine ⟨clk, hc, ?_⟩
    split at h
    · rename_i ho
      exact .inl ⟨ho, by injection h with h; exact h.symm⟩
    · rename_i opt ho
      exact .inr ⟨opt, ho, by injection h with h; exact h.symm⟩

/-- What a no-card path that takes a step did. -/
theorem execSubmitNocard_next {s t : State} {req : Request} (h : execSubmitNocard req s = .next t) :
    requestDefect s.cfg req = none ∧ t = if s.ifV then s else noCardOp req s := by
  unfold execSubmitNocard at h
  split at h
  · cases h
  · rename_i hd
    exact ⟨hd, by injection h with h; exact h.symm⟩

/-- The kind a code names, by the four codes of a legal configuration (R94). -/
theorem respKind_unrecognised_iff (c : Cfg) (rk : BitVec 3) :
    respKind c rk = .unrecognised ↔ rk ∉ [c.rk.none, c.rk.r32, c.rk.r136, c.rk.r32b] := by
  unfold respKind
  split_ifs <;> simp_all

/-! ### Appended events -/

/-- `t`'s history is `s`'s with events appended that all satisfy `P`. -/
def Appends (P : Event → Prop) (s t : State) : Prop :=
  ∃ es, t.history = s.history ++ es ∧ ∀ e ∈ es, P e

namespace Appends

variable {P Q : Event → Prop} {s t u : State}

theorem of_eq (h : t.history = s.history) : Appends P s t := ⟨[], by simp [h], by simp⟩

theorem refl (s : State) : Appends P s s := of_eq rfl

theorem trans (h1 : Appends P s t) (h2 : Appends P t u) : Appends P s u := by
  obtain ⟨e1, h1, p1⟩ := h1
  obtain ⟨e2, h2, p2⟩ := h2
  refine ⟨e1 ++ e2, by rw [h2, h1, List.append_assoc], fun e he => ?_⟩
  rcases List.mem_append.1 he with he | he
  · exact p1 e he
  · exact p2 e he

theorem mono (h : Appends P s t) (hPQ : ∀ e, P e → Q e) : Appends Q s t := by
  obtain ⟨es, h, p⟩ := h
  exact ⟨es, h, fun e he => hPQ e (p e he)⟩

/-- Two states with one history append alike. -/
theorem congr_left (h : Appends P s t) (he : s.history = u.history) : Appends P u t := by
  obtain ⟨es, h, p⟩ := h
  exact ⟨es, he ▸ h, p⟩

theorem congr_right (h : Appends P s t) (he : u.history = t.history) : Appends P s u := by
  obtain ⟨es, h, p⟩ := h
  exact ⟨es, he.trans h, p⟩

/-- One event appended. -/
theorem one {e : Event} (h : t.history = s.history ++ [e]) (hP : P e) : Appends P s t :=
  ⟨[e], h, by simpa using hP⟩

end Appends

theorem appends_completeOp {P : Event → Prop} (e : BitVec 4) (s : State) (h : ∀ snap, P (.done snap)) :
    Appends P s (completeOp e s) := by
  cases hv : s.ifV
  · rw [completeOp_of_empty e hv]
    exact .refl s
  · rw [completeOp_of_inFlight e hv]
    exact .one rfl (h _)

end Sys2Proof.Machine
end

