-- ==== Sys2Proof/Laws/Pump.lean ====
section
/-! SUPPORT. The data pump: where the advance loop ends, what a run of word moves leaves alone, appends to the
history and does to scatter memory. -/

namespace Sys2Proof.Machine

/-! ### The controller's coming answers -/

theorem answerAt_congr {s t : State} (ha : t.answers = s.answers) (hd : t.draws = s.draws) (k : Nat) :
    answerAt k t = answerAt k s := by
  induction k generalizing s t with
  | zero => exact nextAnswer_congr ha hd
  | succ k ih => exact ih (by simp [consumeAnswer, ha]) (by simp [consumeAnswer, ha, hd])

theorem answerAt_regRead (r : RegName) (s : State) (k : Nat) :
    answerAt k (regRead r s) = answerAt (k + 1) s :=
  answerAt_congr (s := consumeAnswer s) (t := regRead r s) rfl rfl k

theorem answerAt_moveWord_read {s : State} (a : MemAddr) (h : s.q.dir = true) (k : Nat) :
    answerAt k (moveWord a s) = answerAt (k + 1) s := by
  rw [moveWord, if_pos h]
  exact answerAt_congr (s := consumeAnswer s) (t := memWrite a (nextAnswer s) (fifoRead s)) rfl rfl k

/-- A read transfer's word moves use one answer each (R78, R175). -/
theorem answerAt_moveWords_read {s : State} (n : Nat) (a : MemAddr) (h : s.q.dir = true) (k : Nat) :
    answerAt k (moveWords n a s) = answerAt (k + n) s := by
  induction n generalizing a s with
  | zero => rfl
  | succ n ih =>
    have hq : (moveWord a s).q = s.q := by unfold moveWord; split <;> rfl
    rw [moveWords, ih _ (hq ▸ h), answerAt_moveWord_read a h]
    rfl

/-! ### The advance loop (R173) -/

/-- A segment with bytes left stops the loop. -/
theorem advanceFrom_stop {g : Segment} {rest : List Segment} {i : Nat} {o : Word}
    (h : o.toNat < g.len.toNat) : advanceFrom (g :: rest) i o = (i, o) := by
  rw [advanceFrom, if_neg (by omega)]

/-- A consumed segment is stepped over. -/
theorem advanceFrom_step {g : Segment} {rest : List Segment} {i : Nat} {o : Word}
    (h : g.len.toNat ≤ o.toNat) : advanceFrom (g :: rest) i o = advanceFrom rest (i + 1) 0#32 := by
  rw [advanceFrom, if_pos h]

/-- From offset 0 the loop steps over the segments of length 0 and stops at the first other one. -/
theorem advanceFrom_zeros {segs : List Segment} {n i : Nat} {g : Segment} (hg : segs[n]? = some g)
    (h0 : 0 < g.len.toNat) (hz : ∀ j < n, ∀ h, segs[j]? = some h → h.len = 0#32) :
    advanceFrom segs i 0#32 = (i + n, 0#32) := by
  induction n generalizing segs i with
  | zero =>
    cases segs with
    | nil => simp at hg
    | cons f rest =>
      simp only [List.getElem?_cons_zero, Option.some.injEq] at hg
      subst hg
      exact advanceFrom_stop (by simpa using h0)
  | succ n ih =>
    cases segs with
    | nil => simp at hg
    | cons f rest =>
      have hf : f.len = 0#32 := hz 0 (by omega) f rfl
      rw [advanceFrom_step (by simp [hf]), ih (by simpa using hg) fun j hj h hh => hz (j + 1) (by omega) h hh]
      congr 1
      omega

/-- With segments of length 0 only, the loop runs to the end of the list. -/
theorem advanceFrom_exhausted {segs : List Segment} {i : Nat} (hz : ∀ h ∈ segs, h.len = 0#32) :
    advanceFrom segs i 0#32 = (i + segs.length, 0#32) := by
  induction segs generalizing i with
  | nil => rfl
  | cons f rest ih =>
    rw [advanceFrom_step (by simp [hz f (by simp)]), ih fun h hh => hz h (by simp [hh])]
    simp only [List.length_cons, Prod.mk.injEq, and_true]
    omega

/-- Everything the loop can do: it stays in range, keeps the bytes consumed in an unfinished cursor, stands
at offset 0 after a move, keeps a multiple of 4, and stops only at bytes left or at the end. -/
theorem advanceFrom_spec (segs : List Segment) (i : Nat) (o : Word)
    (ho : ∀ g, segs[0]? = some g → o.toNat ≤ g.len.toNat) (he : segs = [] → o = 0#32) :
    ∃ n, n ≤ segs.length ∧ (advanceFrom segs i o).1 = i + n ∧
      totalLen (segs.take n) + (advanceFrom segs i o).2.toNat = o.toNat ∧
      (o.toNat % 4 = 0 → (advanceFrom segs i o).2.toNat % 4 = 0) ∧
      (∀ g, segs[n]? = some g → (advanceFrom segs i o).2.toNat < g.len.toNat) ∧
      (segs[n]? = none → (advanceFrom segs i o).2 = 0#32) := by
  induction segs generalizing i o with
  | nil => exact ⟨0, by simp, rfl, by simp [totalLen, advanceFrom], fun h => h, by simp, fun _ => he rfl⟩
  | cons f rest ih =>
    rcases Nat.lt_or_ge o.toNat f.len.toNat with hlt | hge
    · rw [advanceFrom_stop hlt]
      refine ⟨0, by simp, rfl, by simp [totalLen], fun h => h, fun g hg => ?_, by simp⟩
      simp only [List.getElem?_cons_zero, Option.some.injEq] at hg
      exact hg ▸ hlt
    · have heq : f.len.toNat = o.toNat := Nat.le_antisymm hge (ho f rfl)
      obtain ⟨n, hn, h1, h2, h3, h4, h5⟩ := ih (i + 1) 0#32 (by simp) (fun _ => rfl)
      rw [advanceFrom_step hge]
      refine ⟨n + 1, by simp [hn], by omega, ?_, fun _ => h3 rfl, by simpa using h4, by simpa using h5⟩
      simp only [BitVec.toNat_ofNat, Nat.zero_mod] at h2
      simp only [totalLen, List.take_succ_cons, List.map_cons, List.sum_cons] at h2 ⊢
      omega

/-! ### Word moves: the frame -/

/-- What word moves leave alone: all but the controller's FIFO port, the history, memory, and the answers used
up. -/
structure MoveFrame (s t : State) : Prop where
  cfg    : t.cfg = s.cfg
  ifV    : t.ifV = s.ifV
  q      : t.q = s.q
  curV   : t.curV = s.curV
  curI   : t.curI = s.curI
  curO   : t.curO = s.curO
  sdioEn : t.sdioEn = s.sdioEn
  fault  : t.fault = s.fault
  lock   : t.lock = s.lock
  inputs : t.inputs = s.inputs
  calls  : t.calls = s.calls
  fresh  : t.fresh = s.fresh
  ctl    : { t.ctl with fifo := s.ctl.fifo } = s.ctl

theorem moveWord_frame (a : MemAddr) (s : State) : MoveFrame s (moveWord a s) := by
  unfold moveWord
  split <;> constructor <;> rfl

theorem moveWords_frame (n : Nat) (a : MemAddr) (s : State) : MoveFrame s (moveWords n a s) := by
  induction n generalizing a s with
  | zero => constructor <;> rfl
  | succ n ih =>
    have h1 := ih (a.plus 4) (moveWord a s)
    have h2 := moveWord_frame a s
    rw [moveWords]
    exact ⟨h1.cfg.trans h2.cfg, h1.ifV.trans h2.ifV, h1.q.trans h2.q, h1.curV.trans h2.curV,
      h1.curI.trans h2.curI, h1.curO.trans h2.curO, h1.sdioEn.trans h2.sdioEn, h1.fault.trans h2.fault,
      h1.lock.trans h2.lock, h1.inputs.trans h2.inputs, h1.calls.trans h2.calls, h1.fresh.trans h2.fresh,
      by have e := h2.ctl; rw [← h1.ctl] at e; exact e⟩

section MoveWordsFields

variable (n : Nat) (a : MemAddr) (s : State)

@[simp] theorem moveWords_cfg : (moveWords n a s).cfg = s.cfg := (moveWords_frame n a s).cfg
@[simp] theorem moveWords_ifV : (moveWords n a s).ifV = s.ifV := (moveWords_frame n a s).ifV
@[simp] theorem moveWords_q : (moveWords n a s).q = s.q := (moveWords_frame n a s).q
@[simp] theorem moveWords_curV : (moveWords n a s).curV = s.curV := (moveWords_frame n a s).curV
@[simp] theorem moveWords_curI : (moveWords n a s).curI = s.curI := (moveWords_frame n a s).curI
@[simp] theorem moveWords_curO : (moveWords n a s).curO = s.curO := (moveWords_frame n a s).curO
@[simp] theorem moveWords_sdioEn : (moveWords n a s).sdioEn = s.sdioEn := (moveWords_frame n a s).sdioEn
@[simp] theorem moveWords_fault : (moveWords n a s).fault = s.fault := (moveWords_frame n a s).fault
@[simp] theorem moveWords_lock : (moveWords n a s).lock = s.lock := (moveWords_frame n a s).lock
@[simp] theorem moveWords_inputs : (moveWords n a s).inputs = s.inputs := (moveWords_frame n a s).inputs
@[simp] theorem moveWords_calls : (moveWords n a s).calls = s.calls := (moveWords_frame n a s).calls
@[simp] theorem moveWords_fresh : (moveWords n a s).fresh = s.fresh := (moveWords_frame n a s).fresh

end MoveWordsFields

/-! ### Word moves: history and memory -/

theorem plus_four_mul (a : MemAddr) (k : Nat) : (a.plus 4).plus (4 * k) = a.plus (4 * (k + 1)) := by
  rw [MemAddr.plus_plus]
  congr 1
  omega

/-- The events of a read transfer's word moves, in order (R175). -/
theorem moveWords_history_read {s : State} (n : Nat) (a : MemAddr) (h : s.q.dir = true) :
    (moveWords n a s).history = s.history ++ ((List.range n).flatMap fun k =>
      [.fifoRead (answerAt k s), .memWrite (a.plus (4 * k)) (answerAt k s)]) := by
  induction n generalizing a s with
  | zero => simp [moveWords]
  | succ n ih =>
    rw [moveWords, ih _ ((moveWord_frame a s).q ▸ h), List.range_succ_eq_map, List.flatMap_cons,
      List.flatMap_map]
    have hh : (moveWord a s).history
        = s.history ++ [.fifoRead (nextAnswer s), .memWrite a (nextAnswer s)] := by
      simp [moveWord, h]
    rw [hh]
    simp [answerAt_moveWord_read a h, plus_four_mul, answerAt]

/-- A write transfer's word moves leave memory alone. -/
theorem moveWords_mem_write {s : State} (n : Nat) (a : MemAddr) (h : s.q.dir = false) :
    (moveWords n a s).mem = s.mem := by
  induction n generalizing a s with
  | zero => rfl
  | succ n ih =>
    rw [moveWords, ih _ ((moveWord_frame a s).q ▸ h)]
    simp [moveWord, h]

/-- A write transfer's word moves use no answer of the controller. -/
theorem moveWords_answers_write {s : State} (n : Nat) (a : MemAddr) (h : s.q.dir = false) :
    (moveWords n a s).answers = s.answers ∧ (moveWords n a s).draws = s.draws := by
  induction n generalizing a s with
  | zero => exact ⟨rfl, rfl⟩
  | succ n ih =>
    have := ih (a := a.plus 4) (s := moveWord a s) ((moveWord_frame a s).q ▸ h)
    rw [moveWords, this.1, this.2]
    simp [moveWord, h]

/-- The events of a write transfer's word moves, in order (R175). -/
theorem moveWords_history_write {s : State} (n : Nat) (a : MemAddr) (h : s.q.dir = false) :
    (moveWords n a s).history = s.history ++ ((List.range n).flatMap fun k =>
      [.memRead (a.plus (4 * k)) (s.mem.readWord (a.plus (4 * k))),
       .fifoWrite (s.mem.readWord (a.plus (4 * k)))]) := by
  induction n generalizing a s with
  | zero => simp [moveWords]
  | succ n ih =>
    rw [moveWords, ih _ ((moveWord_frame a s).q ▸ h), List.range_succ_eq_map, List.flatMap_cons,
      List.flatMap_map]
    have hh : (moveWord a s).history
        = s.history ++ [.memRead a (s.mem.readWord a), .fifoWrite (s.mem.readWord a)] := by
      simp [moveWord, h]
    have hm : (moveWord a s).mem = s.mem := by simp [moveWord, h]
    rw [hh, hm]
    simp [plus_four_mul]

/-- Word moves keep memory canonical. -/
theorem moveWords_wf {s : State} (n : Nat) (a : MemAddr) (h : Memory.wf s.mem) :
    Memory.wf (moveWords n a s).mem := by
  induction n generalizing a s with
  | zero => exact h
  | succ n ih =>
    rw [moveWords]
    refine ih _ ?_
    unfold moveWord
    split
    · exact Memory.writeWord_wf (by simpa using h) _ _
    · simpa using h

/-- Bytes outside the words moved are as before. -/
theorem moveWords_read_other {s : State} (n : Nat) (a : MemAddr) (hw : Memory.wf s.mem) {x : Nat}
    (hx : ∀ j < 4 * n, x ≠ (a.plus j).key) : Memory.read (moveWords n a s).mem x = Memory.read s.mem x := by
  induction n generalizing a s with
  | zero => rfl
  | succ n ih =>
    have hm : Memory.wf (moveWord a s).mem ∧ Memory.read (moveWord a s).mem x = Memory.read s.mem x := by
      unfold moveWord
      split
      · refine ⟨Memory.writeWord_wf (by simpa using hw) _ _, ?_⟩
        simp only [memWrite_mem, fifoRead_mem]
        exact Memory.read_writeWord_other hw _ _ fun j hj => hx j (by omega)
      · exact ⟨by simpa using hw, by simp⟩
    rw [moveWords, ih (a.plus 4) hm.1, hm.2]
    intro j hj
    rw [MemAddr.plus_plus]
    exact hx (4 + j) (by omega)

/-- A word below the words moved is as before. -/
theorem moveWords_readWord_before {s : State} (n : Nat) (a : MemAddr) (hw : Memory.wf s.mem)
    (hn : 4 * n + 4 ≤ 2 ^ 32) :
    (moveWords n (a.plus 4) s).mem.readWord a = s.mem.readWord a := by
  have ne : ∀ i < 4, ∀ j < 4 * n, (a.plus i).key ≠ ((a.plus 4).plus j).key := fun i hi j hj e => by
    have := MemAddr.key_inj e
    rw [MemAddr.plus_plus] at this
    have := MemAddr.plus_inj (by omega) (by omega) this
    omega
  simp only [Memory.readWord, Memory.byteAt]
  rw [moveWords_read_other n _ hw (ne 3 (by omega)), moveWords_read_other n _ hw (ne 2 (by omega)),
    moveWords_read_other n _ hw (ne 1 (by omega)), moveWords_read_other n _ hw (ne 0 (by omega))]

/-- The words a read transfer moves stand in memory, in ascending order (R175, R66). -/
theorem moveWords_readWord {s : State} (n : Nat) (a : MemAddr) (h : s.q.dir = true)
    (hw : Memory.wf s.mem) (hn : 4 * n ≤ 2 ^ 32) {k : Nat} (hk : k < n) :
    (moveWords n a s).mem.readWord (a.plus (4 * k)) = answerAt k s := by
  induction n generalizing a s k with
  | zero => omega
  | succ n ih =>
    have hm : (moveWord a s).mem = s.mem.writeWord a (nextAnswer s) := by simp [moveWord, h]
    have hwf : Memory.wf (moveWord a s).mem := hm ▸ Memory.writeWord_wf hw _ _
    rw [moveWords]
    cases k with
    | zero =>
      rw [Nat.mul_zero, MemAddr.plus_zero, moveWords_readWord_before n a hwf (by omega), hm,
        Memory.readWord_writeWord hw]
      rfl
    | succ k =>
      rw [← plus_four_mul, ih _ ((moveWord_frame a s).q ▸ h) hwf (by omega) (by omega),
        answerAt_moveWord_read a h]

/-! ### PUMP as a whole (R171 to R176) -/

/-- The ready test is of the direction's own flag (R172). -/
theorem pumpReady_eq (s : State) : pumpReady s =
    (regValue .status2 s).getLsbD (if s.q.dir = true then s.cfg.s2.rxRdy.val else s.cfg.s2.txNf.val) := by
  unfold pumpReady fifoReady
  split <;> rfl

/-- The three ways through PUMP: not triggered, not ready, or a transfer from the advanced cursor. -/
theorem pumpOp_cases (s : State) :
    (pumpTriggered s = false ∧ pumpOp s = s) ∨
    (pumpTriggered s = true ∧ pumpReady s = false ∧ pumpOp s = regRead .status2 s) ∨
    (pumpTriggered s = true ∧ pumpReady s = true ∧
      pumpOp s = pumpBlock (advanceCursor (regRead .status2 s))) := by
  unfold pumpOp
  cases pumpTriggered s <;> cases pumpReady s <;> simp

theorem pumpTriggered_iff (s : State) : pumpTriggered s = true ↔ s.ifV = true ∧ s.q.hasData = true := by
  simp [pumpTriggered]

theorem drop_eq_cons {l : List Segment} {i : Nat} {g : Segment} (h : l[i]? = some g) :
    l.drop i = g :: l.drop (i + 1) := by
  obtain ⟨hi, rfl⟩ := List.getElem?_eq_some_iff.1 h
  exact List.drop_eq_getElem_cons hi

/-- Where the cursor stands after the advance: at the first segment with bytes left (R173). -/
theorem advanced_eq {s : State} {i : Nat} {o : Word} {g : Segment} (hg : s.q.segs[i]? = some g)
    (ho : o.toNat < g.len.toNat)
    (h : i = s.curI ∧ o = s.curO ∨
      s.curI < i ∧ o = 0#32 ∧ (∃ f, s.q.segs[s.curI]? = some f ∧ f.len.toNat ≤ s.curO.toNat) ∧
        ∀ j f, s.curI < j → j < i → s.q.segs[j]? = some f → f.len = 0#32) :
    advanced s = (i, o) := by
  unfold advanced
  rcases h with ⟨rfl, rfl⟩ | ⟨hi, rfl, ⟨f, hf, hl⟩, hz⟩
  · rw [drop_eq_cons hg, advanceFrom_stop ho]
  · rw [drop_eq_cons hf, advanceFrom_step hl, advanceFrom_zeros (n := i - s.curI - 1) (g := g)]
    · congr 1
      omega
    · rw [List.getElem?_drop, ← hg]
      congr 1
      omega
    · simpa using ho
    · intro j hj f hf'
      rw [List.getElem?_drop] at hf'
      exact hz _ f (by omega) (by omega) hf'

theorem totalLen_take_succ {l : List Segment} {i : Nat} {g : Segment} (h : l[i]? = some g) :
    totalLen (l.take (i + 1)) = totalLen (l.take i) + g.len.toNat := by
  rw [List.take_add_one, h]
  simp [totalLen]

theorem totalLen_take_le (l : List Segment) (i : Nat) : totalLen (l.take i) ≤ totalLen l := by
  have h := congrArg totalLen (List.take_append_drop i l)
  simp only [totalLen, List.map_append, List.sum_append] at h ⊢
  omega

/-- The advance keeps the cursor inside the table and the count of bytes moved (R173, R177). -/
theorem advanced_spec {s : State} (hc : CursorOk s.q.segs s.curI s.curO) :
    CursorOk s.q.segs (advanced s).1 (advanced s).2 ∧
    totalLen (s.q.segs.take (advanced s).1) + (advanced s).2.toNat = movedBytes s ∧
    ∀ g, s.q.segs[(advanced s).1]? = some g → (advanced s).2.toNat < g.len.toNat := by
  obtain ⟨n, hn, h1, h2, h3, h4, h5⟩ := advanceFrom_spec (s.q.segs.drop s.curI) s.curI s.curO
    (fun g hg => hc.offset g (by simpa [List.getElem?_drop] using hg))
    (fun he => hc.atEnd (by simp at he ⊢; exact he))
  change (advanced s).1 = _ at h1
  change _ + (advanced s).2.toNat = _ at h2
  change _ → (advanced s).2.toNat % 4 = 0 at h3
  change ∀ g, _ → (advanced s).2.toNat < _ at h4
  change _ → (advanced s).2 = _ at h5
  have hlen := hc.index
  simp only [List.length_drop] at hn
  simp only [List.getElem?_drop] at h4 h5
  rw [h1]
  refine ⟨⟨by omega, fun g hg => (h4 g hg).le, h3 hc.aligned, h5⟩, ?_, h4⟩
  rw [movedBytes, ← h2, List.take_add]
  simp only [totalLen, List.map_append, List.sum_append]
  omega

end Sys2Proof.Machine
end

