-- ==== Sys2Proof/Laws/Irq.lean ====
section
/-! SUPPORT. The interrupt handler and its sub-handlers: what none of them changes, and everything one batch can do
(R150 to R163). -/

namespace Sys2Proof.Machine

/-- What no sub-handler of a batch changes: the configuration, the inputs, the calls left, the lock, the fault, the SDIO
enable, and of the request latch file everything but the response words, the command's error and the byte
count. A slot once empty stays empty. -/
structure HandlerFrame (s t : State) : Prop where
  cfg    : t.cfg = s.cfg
  sdioEn : t.sdioEn = s.sdioEn
  fault  : t.fault = s.fault
  lock   : t.lock = s.lock
  inputs : t.inputs = s.inputs
  calls  : t.calls = s.calls
  fresh  : t.fresh = s.fresh
  request : { t.q with resp0 := s.q.resp0, resp1 := s.q.resp1, resp2 := s.q.resp2, resp3 := s.q.resp3,
                       err := s.q.err, bytes := s.q.bytes } = s.q
  slot   : s.ifV = false → t.ifV = false

namespace HandlerFrame

theorem refl (s : State) : HandlerFrame s s := ⟨rfl, rfl, rfl, rfl, rfl, rfl, rfl, rfl, id⟩

theorem trans {s t u : State} (h1 : HandlerFrame s t) (h2 : HandlerFrame t u) : HandlerFrame s u where
  cfg := h2.cfg.trans h1.cfg
  sdioEn := h2.sdioEn.trans h1.sdioEn
  fault := h2.fault.trans h1.fault
  lock := h2.lock.trans h1.lock
  inputs := h2.inputs.trans h1.inputs
  calls := h2.calls.trans h1.calls
  fresh := h2.fresh.trans h1.fresh
  request := by
    have e1 := h1.request
    rw [← h2.request] at e1
    exact e1
  slot h := h2.slot (h1.slot h)

end HandlerFrame

theorem frame_completeOp (e : BitVec 4) (s : State) : HandlerFrame s (completeOp e s) := by
  cases hv : s.ifV
  · rw [completeOp_of_empty e hv]
    exact .refl s
  · rw [completeOp_of_inFlight e hv]
    exact ⟨rfl, rfl, rfl, rfl, rfl, rfl, rfl, rfl, fun _ => rfl⟩

theorem frame_regRead (r : RegName) (s : State) : HandlerFrame s (regRead r s) :=
  ⟨rfl, rfl, rfl, rfl, rfl, rfl, rfl, rfl, id⟩

theorem frame_regWrite (r : RegName) (v : Word) (s : State) : HandlerFrame s (regWrite r v s) :=
  ⟨rfl, rfl, rfl, rfl, rfl, rfl, rfl, rfl, id⟩

theorem frame_emit (e : Event) (s : State) : HandlerFrame s (emit e s) :=
  ⟨rfl, rfl, rfl, rfl, rfl, rfl, rfl, rfl, id⟩

theorem frame_hotplugOp (s : State) : HandlerFrame s (hotplugOp s) := by
  have h0 : HandlerFrame s (hwReset s) := ⟨rfl, rfl, rfl, rfl, rfl, rfl, rfl, rfl, id⟩
  refine h0.trans (.trans ?_ (frame_emit _ _))
  split
  · exact frame_regRead _ _
  · exact (frame_regRead _ _).trans (frame_completeOp _ _)

theorem frame_errclassOp (st : Word) (s : State) : HandlerFrame s (errclassOp st s) := by
  have h0 : HandlerFrame s (logIoError st s) := by
    unfold logIoError
    split
    · exact frame_emit _ _
    · exact .refl s
  refine h0.trans ?_
  rw [errclassOp, attachError_eq]
  exact ⟨rfl, rfl, rfl, rfl, rfl, rfl, rfl, rfl, id⟩

theorem frame_pumpOp (s : State) : HandlerFrame s (pumpOp s) := by
  unfold pumpOp
  split
  · split
    · refine (frame_regRead .status2 s).trans (.trans (t := advanceCursor (regRead .status2 s))
        ⟨rfl, rfl, rfl, rfl, rfl, rfl, rfl, rfl, id⟩ ?_)
      unfold pumpBlock
      split
      · exact .refl _
      · refine ⟨?_, ?_, ?_, ?_, ?_, ?_, ?_, ?_, fun h => ?_⟩ <;> simp_all [consume]
    · exact frame_regRead _ _
  · exact .refl s

theorem frame_setResp (w : Word × Word × Word × Word) (s : State) : HandlerFrame s (setResp w s) :=
  ⟨rfl, rfl, rfl, rfl, rfl, rfl, rfl, rfl, id⟩

theorem frame_capture (s : State) : HandlerFrame s (capture s) := by
  unfold capture
  split
  · exact .refl s
  · exact (frame_regRead .resp0 s).trans ⟨rfl, rfl, rfl, rfl, rfl, rfl, rfl, rfl, id⟩
  · exact (frame_regRead .resp0 s).trans ⟨rfl, rfl, rfl, rfl, rfl, rfl, rfl, rfl, id⟩
  · exact ((((frame_regRead .resp0 s).trans (frame_regRead .resp1 _)).trans (frame_regRead .resp2 _)).trans
      (frame_regRead .resp3 _)).trans (frame_setResp _ _)
  · exact HandlerFrame.trans (t := { s with draws := s.draws + 4 })
      ⟨rfl, rfl, rfl, rfl, rfl, rfl, rfl, rfl, id⟩ (frame_setResp _ _)

theorem frame_respcapOp (st : Word) (s : State) : HandlerFrame s (respcapOp st s) := by
  unfold respcapOp
  split
  · split
    · refine (frame_capture s).trans ?_
      unfold completeUnlessData
      split
      · exact .refl _
      · exact frame_completeOp _ _
    · exact frame_emit _ _
  · exact .refl s

theorem frame_dataendOp (st : Word) (s : State) : HandlerFrame s (dataendOp st s) := by
  unfold dataendOp
  split
  · split
    · have h0 : HandlerFrame s (recordBytes s) := ⟨rfl, rfl, rfl, rfl, rfl, rfl, rfl, rfl, id⟩
      exact (h0.trans (frame_regWrite .stop 0#32 _)).trans (frame_completeOp _ _)
    · exact frame_emit _ _
  · exact .refl s

theorem frame_handleInOrder (st : Word) (s : State) : HandlerFrame s (handleInOrder st s) :=
  ((frame_pumpOp s).trans (frame_respcapOp st _)).trans (frame_dataendOp st _)

theorem frame_dispatchBatch (st : Word) (s : State) : HandlerFrame s (dispatchBatch st s) := by
  unfold dispatchBatch
  split
  · exact frame_hotplugOp s
  · split
    · unfold batchForRequest
      split
      · exact frame_errclassOp st s
      · exact (frame_errclassOp st s).trans (frame_handleInOrder st _)
    · exact .refl s

/-- The state a batch dispatches from: the status read and acknowledged, under the lock (R151, R152). -/
def afterAck (s : State) : State :=
  acknowledge (regValue .irqStatus s) (regRead .irqStatus (acquire s))

/-- That state in one record. -/
theorem afterAck_eq (s : State) :
    afterAck s = { consumeAnswer s with
      lock := .held
      ctl := { s.ctl with
        irqStatus := regValue .irqStatus s
          &&& ~~~(truncToReg s.cfg .irqStatus (ackSet s.cfg (regValue .irqStatus s)) &&& s.cfg.irqKnown) }
      history := s.history ++ [.regRead .irqStatus (regValue .irqStatus s),
        .regWrite .irqStatus (truncToReg s.cfg .irqStatus (ackSet s.cfg (regValue .irqStatus s)))] } := by
  simp [afterAck, acknowledge, regWrite, regRead, acquire, emit, Ctl.accept, Ctl.set, consumeAnswer,
    nextAnswer, regValue]

theorem afterAck_history (s : State) : (afterAck s).history = s.history ++
    [.regRead .irqStatus (regValue .irqStatus s),
     .regWrite .irqStatus (truncToReg s.cfg .irqStatus (ackSet s.cfg (regValue .irqStatus s)))] := by
  rw [afterAck_eq]

@[simp] theorem afterAck_cfg (s : State) : (afterAck s).cfg = s.cfg := rfl
@[simp] theorem afterAck_ifV (s : State) : (afterAck s).ifV = s.ifV := rfl
@[simp] theorem afterAck_q (s : State) : (afterAck s).q = s.q := rfl
@[simp] theorem afterAck_curV (s : State) : (afterAck s).curV = s.curV := rfl
@[simp] theorem afterAck_curI (s : State) : (afterAck s).curI = s.curI := rfl
@[simp] theorem afterAck_curO (s : State) : (afterAck s).curO = s.curO := rfl
@[simp] theorem afterAck_mem (s : State) : (afterAck s).mem = s.mem := rfl

/-- IRQ takes a step from every state, and everything it does after the acknowledge is one of the four exits
of R232: hotplug, spurious, error abort, the full path. -/
theorem irq_cases (s : State) :
    exec .irq s = .next (release (dispatchBatch (regValue .irqStatus s) (afterAck s))) ∧
    ((hotplugEvent s.cfg (regValue .irqStatus s) = true ∧
        dispatchBatch (regValue .irqStatus s) (afterAck s) = hotplugOp (afterAck s)) ∨
     (hotplugEvent s.cfg (regValue .irqStatus s) = false ∧ s.ifV = false ∧
        dispatchBatch (regValue .irqStatus s) (afterAck s) = afterAck s) ∨
     (hotplugEvent s.cfg (regValue .irqStatus s) = false ∧ s.ifV = true ∧
        (classify s.cfg (regValue .irqStatus s)).aborts = true ∧
        dispatchBatch (regValue .irqStatus s) (afterAck s) = errclassOp (regValue .irqStatus s) (afterAck s)) ∨
     (hotplugEvent s.cfg (regValue .irqStatus s) = false ∧ s.ifV = true ∧
        (classify s.cfg (regValue .irqStatus s)).aborts = false ∧
        dispatchBatch (regValue .irqStatus s) (afterAck s)
          = handleInOrder (regValue .irqStatus s)
              (errclassOp (regValue .irqStatus s) (afterAck s)))) := by
  refine ⟨rfl, ?_⟩
  rw [dispatchBatch, afterAck_cfg, afterAck_ifV]
  cases hotplugEvent s.cfg (regValue .irqStatus s)
  · cases s.ifV
    · simp
    · rw [batchForRequest, afterAck_cfg]
      cases (classify s.cfg (regValue .irqStatus s)).aborts <;> simp
  · simp

/-- What HOTPLUG's presence re-read answers: the reset has used up 15 free values and no answer (R155). -/
theorem regValue_hwReset (r : RegName) (s : State) :
    regValue r (hwReset s) = regValue r { s with draws := s.draws + 15 } := rfl

/-- HOTPLUG with the card present after the reset (R155, R262). -/
theorem hotplugOp_of_present {s : State}
    (h : stBit (regValue .irqStatus { s with draws := s.draws + 15 }) s.cfg.st.present = true) :
    hotplugOp s = emit .card (regRead .irqStatus (hwReset s)) := by
  rw [hotplugOp, hotplugTail, regValue_hwReset, if_pos (by exact h)]

/-- HOTPLUG with the card absent after the reset (R155). -/
theorem hotplugOp_of_absent {s : State}
    (h : stBit (regValue .irqStatus { s with draws := s.draws + 15 }) s.cfg.st.present = false) :
    hotplugOp s = emit .card (completeOp s.cfg.err.noMedium (regRead .irqStatus (hwReset s))) := by
  rw [hotplugOp, hotplugTail, regValue_hwReset,
    if_neg (by rw [show (hwReset s).cfg = s.cfg from rfl, h]; decide)]
  rfl

/-- ERRCLASS in one record (R159, R160). -/
theorem errclassOp_eq {s : State} (h : s.cfg.err.codes.Nodup) (st : Word) :
    errclassOp st s = { s with
      q := { s.q with err := match classify s.cfg st with
        | .noError => s.q.err
        | .timeout => s.cfg.err.timeout
        | .dataIntegrity => s.cfg.err.dataIntegrity
        | .io => s.cfg.err.io }
      history := s.history
        ++ (if classify s.cfg st = .io then [.log (.ioErrBits (st &&& s.cfg.errGroup))] else []) } := by
  have hz := errs_ne_none h
  rw [errclassOp, attachError_eq, logIoError]
  cases hk : classify s.cfg st <;> simp [ErrClass.code, eNone, hz, emit]

theorem aborts_eq_true {k : ErrClass} : k.aborts = true ↔ k = .dataIntegrity ∨ k = .io := by
  cases k <;> simp [ErrClass.aborts]

theorem aborts_eq_false {k : ErrClass} : k.aborts = false ↔ k = .noError ∨ k = .timeout := by
  cases k <;> simp [ErrClass.aborts]

/-- What a batch leaves alone, from the state it was selected in. -/
theorem frame_batch (s : State) :
    HandlerFrame (acquire s) (dispatchBatch (regValue .irqStatus s) (afterAck s)) :=
  HandlerFrame.trans (t := afterAck s) ⟨rfl, rfl, rfl, rfl, rfl, rfl, rfl, rfl, id⟩
    (frame_dispatchBatch _ (afterAck s))

end Sys2Proof.Machine
end

