-- ==== Sys2Proof/Laws/PerInstr.lean ====
section
/-! SUPPORT. Statements made per instruction, one lemma for each constructor. -/

namespace Sys2Proof.Laws.Format

/-- R91, R92: an instruction is selected by a transaction of the upstream port (or an interrupt line) exactly
when it is not one that the sequencer selects itself. -/
def Statement (i : Instr) : Prop :=
  ∀ c : Cfg, (∃ t, encode c i = .port t) ↔ i.agent ≠ .sequencer

theorem of_port {i : Instr} (hp : ∀ c, ∃ t, encode c i = .port t) (ha : i.agent ≠ .sequencer) :
    Statement i := fun c => ⟨fun _ => ha, fun _ => hp c⟩

theorem of_sequencer {i : Instr} (hp : ∀ c t, encode c i ≠ .port t) (ha : i.agent = .sequencer) :
    Statement i := fun c => ⟨fun ⟨_, h⟩ => (hp c _ h).elim, fun h => (h ha).elim⟩

theorem attachReset : Statement .attachReset :=
  of_port (fun _ => ⟨_, rfl⟩) (fun h => by cases h)

theorem submit (req : Request) : Statement (.submit req) :=
  of_port (fun _ => ⟨_, rfl⟩) (fun h => by cases h)

theorem submitStop (req : Request) : Statement (.submitStop req) :=
  of_port (fun _ => ⟨_, rfl⟩) (fun h => by cases h)

theorem submitSec52 (req : Request) : Statement (.submitSec52 req) :=
  of_port (fun _ => ⟨_, rfl⟩) (fun h => by cases h)

theorem submitSec53 (req : Request) : Statement (.submitSec53 req) :=
  of_port (fun _ => ⟨_, rfl⟩) (fun h => by cases h)

theorem submitApp (req : Request) : Statement (.submitApp req) :=
  of_port (fun _ => ⟨_, rfl⟩) (fun h => by cases h)

theorem apply (clockHz : Word) (width : BitVec 8) (powerOff : Bool) : Statement (.apply clockHz width powerOff) :=
  of_port (fun _ => ⟨_, rfl⟩) (fun h => by cases h)

theorem getCd : Statement .getCd :=
  of_port (fun _ => ⟨_, rfl⟩) (fun h => by cases h)

theorem getRo : Statement .getRo :=
  of_port (fun _ => ⟨_, rfl⟩) (fun h => by cases h)

theorem sdioEn (en : Bool) : Statement (.sdioEn en) :=
  of_port (fun _ => ⟨_, rfl⟩) (fun h => by cases h)

theorem irq : Statement .irq :=
  of_port (fun _ => ⟨_, rfl⟩) (fun h => by cases h)

theorem sdioIrq : Statement .sdioIrq :=
  of_port (fun _ => ⟨_, rfl⟩) (fun h => by cases h)

theorem submitNocard (req : Request) : Statement (.submitNocard req) :=
  of_sequencer (fun _ _ h => by cases h) rfl

theorem hotplug : Statement .hotplug :=
  of_sequencer (fun _ _ h => by cases h) rfl

theorem errclass (st : Word) : Statement (.errclass st) :=
  of_sequencer (fun _ _ h => by cases h) rfl

theorem pump : Statement .pump :=
  of_sequencer (fun _ _ h => by cases h) rfl

theorem respcap (st : Word) : Statement (.respcap st) :=
  of_sequencer (fun _ _ h => by cases h) rfl

theorem dataend (st : Word) : Statement (.dataend st) :=
  of_sequencer (fun _ _ h => by cases h) rfl

theorem complete (e : BitVec 4) : Statement (.complete e) :=
  of_sequencer (fun _ _ h => by cases h) rfl

theorem hwreset : Statement .hwreset :=
  of_sequencer (fun _ _ h => by cases h) rfl

end Sys2Proof.Laws.Format
end

