-- ==== Sys2Proof/Laws/Response.lean ====
section
/-! SUPPORT. Response capture and data end, each path in one record (R180 to R194). -/

namespace Sys2Proof.Machine

/-- A short response (R181). -/
theorem captureShort_eq (s : State) : captureShort s = { consumeAnswer s with
    q := { s.q with resp0 := regValue .resp0 s }
    ctl := { s.ctl with resp0 := regValue .resp0 s }
    history := s.history ++ [.regRead .resp0 (regValue .resp0 s)] } := by
  simp [captureShort, regRead, emit, Ctl.set, consumeAnswer]

/-- The value of the n-th of a run of reads, at the width of the register it reads (R8, R78). -/
abbrev valueAt (r : RegName) (n : Nat) (s : State) : Word := truncToReg s.cfg r (answerAt n s)

/-- The four response reads of a 136-bit response (R182). -/
theorem captureLong_reads (s : State) :
    regRead .resp3 (regRead .resp2 (regRead .resp1 (regRead .resp0 s))) =
      { consumeAnswer (consumeAnswer (consumeAnswer (consumeAnswer s))) with
        ctl := { s.ctl with
          resp0 := valueAt .resp0 0 s
          resp1 := valueAt .resp1 1 s
          resp2 := valueAt .resp2 2 s
          resp3 := valueAt .resp3 3 s }
        history := s.history ++ [.regRead .resp0 (valueAt .resp0 0 s), .regRead .resp1 (valueAt .resp1 1 s),
          .regRead .resp2 (valueAt .resp2 2 s), .regRead .resp3 (valueAt .resp3 3 s)] } := by
  simp [valueAt, regRead, emit, Ctl.set, answerAt, consumeAnswer, nextAnswer, regValue]

/-- A 136-bit response (R182, R183): four reads in ascending order, and their repacking. -/
theorem captureLong_eq (s : State) : captureLong s =
    setResp (repack136 s.cfg (valueAt .resp0 0 s) (valueAt .resp1 1 s) (valueAt .resp2 2 s)
        (valueAt .resp3 3 s))
      { consumeAnswer (consumeAnswer (consumeAnswer (consumeAnswer s))) with
        ctl := { s.ctl with
          resp0 := valueAt .resp0 0 s
          resp1 := valueAt .resp1 1 s
          resp2 := valueAt .resp2 2 s
          resp3 := valueAt .resp3 3 s }
        history := s.history ++ [.regRead .resp0 (valueAt .resp0 0 s), .regRead .resp1 (valueAt .resp1 1 s),
          .regRead .resp2 (valueAt .resp2 2 s), .regRead .resp3 (valueAt .resp3 3 s)] } := by
  have h1 : nextAnswer (regRead .resp0 s) = answerAt 1 s := answerAt_regRead .resp0 s 0
  have h2 : nextAnswer (regRead .resp1 (regRead .resp0 s)) = answerAt 2 s :=
    (answerAt_regRead .resp1 _ 0).trans (answerAt_regRead .resp0 s 1)
  have h3 : nextAnswer (regRead .resp2 (regRead .resp1 (regRead .resp0 s))) = answerAt 3 s :=
    (answerAt_regRead .resp2 _ 0).trans ((answerAt_regRead .resp1 _ 1).trans (answerAt_regRead .resp0 s 2))
  simp only [captureLong, regValue, regRead_cfg]
  rw [h1, h2, h3, captureLong_reads]
  rfl

/-- Completion for a request without data, deferral for one with data (R185). -/
theorem completeUnlessData_eq {s : State} (hv : s.ifV = true) : completeUnlessData s = { s with
    ifV := s.q.hasData
    curV := if s.q.hasData = true then s.curV else false
    history := s.history ++ (if s.q.hasData = true then [] else [.done (snapshotOf s.q)]) } := by
  cases hd : s.q.hasData
  · simp [completeUnlessData, hd, completeOp, hv, attachError, eNone, emit]
  · simp only [completeUnlessData, hd, if_true, List.append_nil]
    rw [← hv]

theorem respcapOp_of_active {s : State} {st : Word} (hv : s.ifV = true)
    (hb : stBit st s.cfg.st.respEnd = true) : respcapOp st s = completeUnlessData (capture s) := by
  rw [respcapOp, if_pos hb, if_pos hv]

theorem respcapOp_of_clear {s : State} {st : Word} (hb : stBit st s.cfg.st.respEnd = false) :
    respcapOp st s = s := by simp [respcapOp, hb]

/-- The end of an active transfer (R192 to R194). -/
theorem finishTransfer_eq {s : State} (hv : s.ifV = true) : finishTransfer s = { s with
    ifV := false
    curV := false
    q := { s.q with bytes := reportedBytes s.q, err := if s.q.derr = 0#4 then s.q.err else s.q.derr }
    ctl := { s.ctl with stop := 0#32 }
    history := s.history ++ [.regWrite .stop 0#32, .done (snapshotOf
      { s.q with bytes := reportedBytes s.q, err := if s.q.derr = 0#4 then s.q.err else s.q.derr })] } := by
  have hv' : (regWrite .stop 0#32 (recordBytes s)).ifV = true := hv
  rw [finishTransfer, completeOp_of_inFlight _ hv']
  simp [recordBytes, regWrite, emit, Ctl.accept, Ctl.set]

/-- The byte product does not overflow 32 bits (R192, D40). -/
theorem toNat_byteProduct (r : Request) :
    (byteProduct r).toNat = r.blocks.toNat * r.blksz.toNat := by
  have h1 := r.blocks.isLt
  have h2 := r.blksz.isLt
  have h3 : r.blocks.toNat * r.blksz.toNat ≤ 65535 * 65535 := Nat.mul_le_mul (by omega) (by omega)
  simp only [byteProduct, BitVec.toNat_mul, BitVec.toNat_setWidth]
  rw [Nat.mod_eq_of_lt (a := r.blocks.toNat) (by omega), Nat.mod_eq_of_lt (a := r.blksz.toNat) (by omega),
    Nat.mod_eq_of_lt (by omega)]

end Sys2Proof.Machine
end

