-- ==== Sys2Proof/Laws/Step.lean ====
section
/-! SUPPORT. What a selection decodes to, by who makes it, and everything one step can do. -/

namespace Sys2Proof

/-- A port transaction selects an operation of the stack or of an interrupt line, and is never passed over. -/
theorem decode_port_agent {c : Cfg} {t : Transaction} {i : Instr} (h : decode c (.port t) = .ok i) :
    i.agent ≠ .sequencer := by
  simp only [decode, decodePort, decodeSubmit] at h
  split_ifs at h <;> cases h <;> nofun

theorem decode_port_ne_pass (c : Cfg) (t : Transaction) : decode c (.port t) ≠ .pass := by
  simp only [decode, decodePort]
  split_ifs <;> nofun

/-- A call selects an instruction of the sequencer itself. -/
theorem decode_call_agent {c : Cfg} {k : Call} {i : Instr} (h : decode c (.call k) = .ok i) :
    i.agent = .sequencer := by
  cases k with
  | presence st r =>
    simp only [decode, decodeCall] at h
    split_ifs at h
    cases h
    rfl
  | stage g st =>
    cases g <;> simp only [decode, decodeCall, decodeStage] at h <;> split_ifs at h <;> cases h <;> rfl
  | ready w => cases h; rfl
  | complete e =>
    simp only [decode, decodeCall] at h
    split_ifs at h
    cases h
    rfl
  | hwreset => cases h; rfl
  | unformatted n w => cases h

namespace Machine

/-- Everything a step that gives a next state did: nothing with nothing presented, a transaction of the port
with the lock free, or, with the lock held, a call, a call passed over, or the operation's return. -/
theorem step_cases {s t : State} (h : step s = .next t) : s.fault = none ∧
    ((s.lock = .free ∧ s.inputs = [] ∧ t = s) ∨
     (∃ x rest i, s.lock = .free ∧ s.inputs = x :: rest ∧ decode s.cfg (.port x) = .ok i ∧
       (i = .attachReset → s.fresh = true) ∧ exec i (takeInput s) = .next t) ∨
     (s.lock = .held ∧ s.calls = [] ∧ t = release s) ∨
     (∃ k rest, s.lock = .held ∧ s.calls = k :: rest ∧ decode s.cfg (.call k) = .pass ∧ t = takeCall s) ∨
     (∃ k rest i, s.lock = .held ∧ s.calls = k :: rest ∧ decode s.cfg (.call k) = .ok i ∧
       exec i (takeCall s) = .next t)) := by
  cases hf : s.fault with
  | some f => simp [step, fetch, hf] at h
  | none =>
    refine ⟨rfl, ?_⟩
    cases hl : s.lock with
    | free =>
      cases hi : s.inputs with
      | nil =>
        simp only [step, fetch, hf, hl, hi] at h
        injection h with h
        exact .inl ⟨rfl, rfl, h.symm⟩
      | cons x rest =>
        cases hd : decode s.cfg (.port x) with
        | pass => exact (decode_port_ne_pass _ _ hd).elim
        | reject e => simp [step, fetch, hf, hl, hi, fetchSelection, hd] at h
        | ok i =>
          cases ha : admitted i s with
          | false => simp [step, fetch, hf, hl, hi, fetchSelection, hd, ha] at h
          | true =>
            simp only [step, fetch, hf, hl, hi, fetchSelection, hd, ha, if_true] at h
            exact .inr (.inl ⟨x, rest, i, rfl, rfl, hd, fun hr => by simpa [admitted, hr] using ha, h⟩)
    | held =>
      cases hc : s.calls with
      | nil =>
        simp only [step, fetch, hf, hl, hc] at h
        injection h with h
        exact .inr (.inr (.inl ⟨rfl, rfl, h.symm⟩))
      | cons k rest =>
        cases hd : decode s.cfg (.call k) with
        | pass =>
          simp only [step, fetch, hf, hl, hc, fetchSelection, hd] at h
          injection h with h
          exact .inr (.inr (.inr (.inl ⟨k, rest, rfl, rfl, hd, h.symm⟩)))
        | reject e => simp [step, fetch, hf, hl, hc, fetchSelection, hd] at h
        | ok i =>
          have ha : admitted i s = true := by
            have : i ≠ .attachReset := by
              rintro rfl
              cases decode_call_agent hd
            simp [admitted, this]
          simp only [step, fetch, hf, hl, hc, fetchSelection, hd, ha, if_true] at h
          exact .inr (.inr (.inr (.inr ⟨k, rest, i, rfl, rfl, hd, h⟩)))

end Machine

end Sys2Proof
end

