-- ==== Sys2Proof/Laws/Submit.lean ====
section
/-! SUPPORT. SUBMIT: the register program in one record, and everything a SUBMIT that takes a step can do. -/

namespace Sys2Proof.Machine

/-- The register program of a latched request, in one record (R135 to R140). -/
theorem registerProgram_eq (s : State) :
    let sec := truncToReg s.cfg .stop (s.cfg.stop.sec.setWidth 32)
    let blkLen := truncToReg s.cfg .blkLen (s.q.blksz.setWidth 32)
    let blkCount := truncToReg s.cfg .blkCount (s.q.blocks.setWidth 32)
    let arg := truncToReg s.cfg .arg s.q.arg
    let cmd := truncToReg s.cfg .cmd ((commandWord s.cfg s.q).setWidth 32)
    registerProgram s = { s with
      curV := s.q.hasData || s.curV
      curI := if s.q.hasData then 0 else s.curI
      curO := if s.q.hasData then 0#32 else s.curO
      ctl := { s.ctl with
        stop := if s.q.hasData ∧ 1 < s.q.blocks.toNat then sec else s.ctl.stop
        blkLen := if s.q.hasData then blkLen else s.ctl.blkLen
        blkCount := if s.q.hasData then blkCount else s.ctl.blkCount
        arg := arg
        cmd := cmd }
      history := s.history
        ++ (if respKind s.cfg s.q.rk = .unrecognised then [.log (.configRk s.q.rk)] else [])
        ++ (if s.q.hasData ∧ 1 < s.q.blocks.toNat then [.regWrite .stop sec] else [])
        ++ (if s.q.hasData then [.regWrite .blkLen blkLen, .regWrite .blkCount blkCount] else [])
        ++ [.regWrite .arg arg, .regWrite .cmd cmd] } := by
  by_cases hk : respKind s.cfg s.q.rk = .unrecognised <;> by_cases hd : s.q.hasData = true <;>
    by_cases hb : 1 < s.q.blocks.toNat <;>
    simp [registerProgram, armWrites, programData, logKind, enableAutoStop, rebuildCursor, emit, regWrite,
      Ctl.accept, Ctl.set, hk, hd, hb]

/-- Everything a SUBMIT that takes a step can do: the busy fault (R131), the no-card path (R132), the
stop-transmission path (R134), or latching and the register program (R133, R135 to R140). -/
theorem submit_cases {s t : State} {i : Instr} {req : Request} (hi : i.submitted = some req)
    (h : exec i s = .next t) :
    requestDefect s.cfg req = none ∧
    ((s.ifV = true ∧ t = release (raise .busySubmit (emit (.log .busySubmit) (acquire s)))) ∨
     (s.ifV = false ∧ stBit (regValue .irqStatus s) s.cfg.st.present = false ∧
       t = release (noCardOp req (regRead .irqStatus (acquire s)))) ∨
     (s.ifV = false ∧ stBit (regValue .irqStatus s) s.cfg.st.present = true ∧ req.opc = s.cfg.opc.stop ∧
       t = release (stopOp (latch req (regRead .irqStatus (acquire s))))) ∨
     (s.ifV = false ∧ stBit (regValue .irqStatus s) s.cfg.st.present = true ∧ req.opc ≠ s.cfg.opc.stop ∧
       t = release (registerProgram (latch req (regRead .irqStatus (acquire s)))))) := by
  rw [exec_submitted hi] at h
  obtain ⟨hd, rfl⟩ := submitOp_next h
  refine ⟨hd, ?_⟩
  cases hv : s.ifV
  · cases hp : stBit (regValue .irqStatus s) s.cfg.st.present
    · simp [submitBody, hv, hp]
    · by_cases ho : req.opc = s.cfg.opc.stop <;> simp [submitBody, hv, hp, acceptRequest, latch, ho]
  · simp [submitBody, hv]

/-- The stop-transmission path, in one record (R134). -/
theorem stopOp_eq {s : State} (hv : s.ifV = true) :
    stopOp s = { s with
      ifV := false
      curV := false
      q := { s.q with resp0 := s.q.opc.setWidth 32, resp1 := 0#32, resp2 := 0#32, resp3 := 0#32 }
      ctl := { s.ctl with stop := truncToReg s.cfg .stop (s.cfg.stop.stp.setWidth 32) }
      history := s.history ++ [.regWrite .stop (truncToReg s.cfg .stop (s.cfg.stop.stp.setWidth 32)),
        .done (snapshotOf
          { s.q with resp0 := s.q.opc.setWidth 32, resp1 := 0#32, resp2 := 0#32, resp3 := 0#32 })] } := by
  simp [stopOp, completeOp, attachError, eNone, hv, emit, regWrite, Ctl.accept, Ctl.set]

/-- What a SUBMIT that takes a step leaves alone, and what it does to `FAULT` and the latch file. -/
theorem submit_frame {s t : State} {i : Instr} {req : Request} (hi : i.submitted = some req)
    (h : exec i s = .next t) :
    t.cfg = s.cfg ∧ t.sdioEn = s.sdioEn ∧ t.lock = .free ∧ t.inputs = s.inputs ∧ t.calls = s.calls ∧
    t.fresh = s.fresh ∧
    t.mem = s.mem ∧ t.fault = (if s.ifV = true then some .busySubmit else s.fault) ∧
    (s.ifV = true → t.q = s.q) ∧ (s.ifV = false → t.ifV = true → t.q = req) := by
  obtain ⟨-, ⟨hv, rfl⟩ | ⟨hv, -, rfl⟩ | ⟨hv, -, -, rfl⟩ | ⟨hv, -, -, rfl⟩⟩ := submit_cases hi h
  · simp [hv, raise, release, emit, acquire]
  · simp [hv, noCardOp]
  · rw [stopOp_eq (by rfl)]
    simp [hv, release, latch]
  · rw [registerProgram_eq]
    simp [hv, release, latch]

end Sys2Proof.Machine
end

