-- ==== Sys2Proof/Tests/Slice0.lean ====
section
/-! SUPPORT. Tests of one step each, with expected results from `spec/95_test_vectors.md` and the encoding tables,
the smoke tests of WellFormed, and for each statement with hypotheses a witness that meets them. -/

namespace Sys2Proof.Tests

open Sys2Proof.Machine

/-! ### Helpers -/

/-- An idle sequencer in `CFG_REF`, the controller about to give these answers. -/
def idle (answers : List Word) : State := { State.reset with answers := answers, fresh := false }

/-- A request in flight, no cursor. -/
def busy (q : Request) (answers : List Word) : State := { idle answers with ifV := true, q := q }

/-- A transfer in flight with its cursor. -/
def xfer (q : Request) (i : Nat) (o : Word) (answers : List Word) : State :=
  { busy q answers with curV := true, curI := i, curO := o }

/-- `CMD_ND`: a request without data. -/
def cmdNd (opc : Half) (arg : Word) (rk : BitVec 3) : Request :=
  { Request.zero with opc := opc, arg := arg, rk := rk }

/-- `READ`: a request with a read transfer. -/
def readReq (opc : Half) (arg : Word) (rk : BitVec 3) (blksz blocks : Half) (segs : List Segment) : Request :=
  { cmdNd opc arg rk with hasData := true, dir := true, blksz := blksz, blocks := blocks, segs := segs }

/-- `WRITE`: a request with a write transfer. -/
def writeReq (opc : Half) (arg : Word) (rk : BitVec 3) (blksz blocks : Half) (segs : List Segment) : Request :=
  { readReq opc arg rk blksz blocks segs with dir := false }

/-- One 8-byte block into `(H0, 0x100)`: the request of P1 and V41-8. -/
def read8 : Request := readReq 17 0x1000 1 8 1 [⟨0, 0x100, 8⟩]

/-- Two 4-byte blocks from `(H1, 0)` and `(H2, 8)`: the request of P2 and V41-11. -/
def write44 : Request := writeReq 25 0x2000 1 4 2 [⟨1, 0, 4⟩, ⟨2, 8, 4⟩]

/-- The start memory of P2: DE AD BE EF at `(H1, 0..3)`, 01 02 03 04 at `(H2, 8..11)`. -/
def memP2 : Memory := [(4294967296, 0xDE), (4294967297, 0xAD), (4294967298, 0xBE), (4294967299, 0xEF),
  (8589934600, 0x01), (8589934601, 0x02), (8589934602, 0x03), (8589934603, 0x04)]

/-- A transaction with a select and no operand. -/
def select (u : BitVec 4) : Transaction := { select := u, ops := Operands.zero }

/-- A sub-handler or helper about to run, inside an operation that holds the lock. -/
def inside (k : Call) (s : State) : State := { s with lock := .held, calls := [k] }

/-- One observation of the state an instruction leaves, if it takes a step. -/
def observe {α : Type} (f : State → α) : Host.Outcome State Fault Refusal → Option α
  | .next t => some (f t)
  | .fault _ => none
  | .refused _ => none

/-- It takes a step. -/
def completes (o : Host.Outcome State Fault Refusal) : Bool := (observe (fun _ => ()) o).isSome

theorem next_of_completes {o : Host.Outcome State Fault Refusal} (h : completes o = true) :
    ∃ t, o = .next t := by
  cases o with
  | next t => exact ⟨t, rfl⟩
  | fault f => cases h
  | refused r => cases h

/-! ### WellFormed: an ill-formed term for each check -/

theorem test_wf_accepts : (Instr.submit read8).wellFormed Cfg.ref = true ∧
    (Instr.submit write44).wellFormed Cfg.ref = true ∧
    (Instr.apply 31250 4 false).wellFormed Cfg.ref = true := by decide
theorem test_wf_opcode :
    requestDefect Cfg.ref (cmdNd 64 0 1) = some .opcode ∧ requestDefect Cfg.ref (cmdNd 63 0 1) = none := by decide
theorem test_wf_argument : requestDefect
    { Cfg.ref with width := { opc := 6, arg := 16, blk := 16 } } (cmdNd 13 0x10000 1) = some .argument := by decide
theorem test_wf_block_width : requestDefect
    { Cfg.ref with width := { opc := 6, arg := 32, blk := 12 } } { read8 with blksz := 4096 }
      = some .blockWidth := by decide
theorem test_wf_cmd_error : requestDefect Cfg.ref { read8 with err := 1 } = some .cmdError := by decide
theorem test_wf_data_error : requestDefect Cfg.ref { read8 with derr := 3 } = some .dataError := by decide
theorem test_wf_bytes : requestDefect Cfg.ref { read8 with bytes := 8 } = some .bytes := by decide
theorem test_wf_block_size :
    requestDefect Cfg.ref { read8 with blksz := 0 } = some .blockSize ∧
    requestDefect Cfg.ref { read8 with blksz := 6 } = some .blockSize := by decide
theorem test_wf_block_count : requestDefect Cfg.ref { read8 with blocks := 0 } = some .blockCount := by decide
theorem test_wf_segment_count :
    requestDefect Cfg.ref { read8 with segs := [] } = some .segmentCount ∧
    requestDefect { Cfg.ref with nsegMax := 1 } write44 = some .segmentCount := by decide
theorem test_wf_segment_alignment :
    requestDefect Cfg.ref { read8 with segs := [⟨0, 0x102, 8⟩] } = some .segmentAlignment ∧
    requestDefect Cfg.ref { read8 with segs := [⟨0, 0, 6⟩, ⟨1, 0, 2⟩] } = some .segmentAlignment := by decide
theorem test_wf_segment_total :
    requestDefect Cfg.ref { read8 with segs := [⟨0, 0x100, 4⟩] } = some .segmentTotal := by decide
theorem test_wf_segment_range :
    requestDefect Cfg.ref { read8 with segs := [⟨0, 0xFFFFFFF8, 8⟩] } = some .segmentRange := by decide
theorem test_wf_segment_overlap :
    requestDefect Cfg.ref { write44 with segs := [⟨1, 0, 4⟩, ⟨1, 0, 4⟩] } = some .segmentOverlap := by decide
theorem test_wf_refuses_opcode_of_another_row :
    (Instr.submit (cmdNd 12 0 3)).wellFormed Cfg.ref = false ∧
    (Instr.submitStop (cmdNd 13 0 1)).wellFormed Cfg.ref = false ∧
    (Instr.submitSec52 (cmdNd 53 0 1)).wellFormed Cfg.ref = false ∧
    (Instr.submitSec53 (cmdNd 52 0 1)).wellFormed Cfg.ref = false ∧
    (Instr.submitApp (cmdNd 54 0 1)).wellFormed Cfg.ref = false := by decide
theorem test_wf_refuses_operands :
    (Instr.submitNocard { read8 with err := 1 }).wellFormed Cfg.ref = false ∧
    (Instr.apply 31188 4 false).wellFormed Cfg.ref = false ∧
    (Instr.apply 31188 8 true).wellFormed Cfg.ref = false ∧
    (Instr.errclass 0x00020010).wellFormed Cfg.ref = false ∧
    (Instr.respcap 0x00000004).wellFormed Cfg.ref = false ∧
    (Instr.dataend 0x00000001).wellFormed Cfg.ref = false ∧
    (Instr.complete 5).wellFormed Cfg.ref = false := by decide

/-! ### Decoding: the opcode table's bit patterns -/

/-- The keys of R91 and R100 that are not SUBMIT's; the opcode bits are ignored. -/
theorem test_decode_op_rows :
    decodeTableWord 16 0b0000000000 = some .attachReset ∧
    decodeTableWord 16 0b0000101010 = some .attachReset ∧
    decodeTableWord 16 0b0010000000 = some (.apply 0 0 false) ∧
    decodeTableWord 16 0b0011000000 = some .getCd ∧
    decodeTableWord 16 0b0100000000 = some .getRo ∧
    decodeTableWord 16 0b0101000000 = some (.sdioEn false) ∧
    decodeTableWord 16 0b1000000000 = some .irq ∧
    decodeTableWord 16 0b1001000000 = some .sdioIrq := by decide

/-- The SUBMIT keys of R100: opcodes 12, 52, 53, 55 exactly, then every other. -/
theorem test_decode_submit_rows :
    decodeTableWord 16 0b0001001100 = some (.submitStop (cmdNd 12 0 0)) ∧
    decodeTableWord 16 0b0001110100 = some (.submitSec52 (cmdNd 52 0 0)) ∧
    decodeTableWord 16 0b0001110101 = some (.submitSec53 (cmdNd 53 0 0)) ∧
    decodeTableWord 16 0b0001110111 = some (.submitApp (cmdNd 55 0 0)) ∧
    decodeTableWord 16 0b0001000000 = some (.submit (cmdNd 0 0 0)) ∧
    decodeTableWord 16 0b0001111111 = some (.submit (cmdNd 63 0 0)) := by decide

/-- The patterns of R92 over the status word, `STATUS2` and the error code. -/
theorem test_decode_subhandler_rows :
    decodeTableWord 32 0x00000000 = some (.submitNocard (cmdNd 0 0 0)) ∧
    decodeTableWord 32 0x00000008 = some .hotplug ∧
    decodeTableWord 32 0x00000010 = some .hotplug ∧
    decodeTableWord 32 0x00400000 = some (.errclass 0x00400000) ∧
    decodeTableWord 32 0x00000001 = some (.respcap 0x00000001) ∧
    decodeTableWord 32 0x00000004 = some (.dataend 0x00000004) := by decide
/-- PUMP is always attempted, whatever its `STATUS2` word. -/
theorem test_decode_pump_and_call_rows :
    decodeTableWord 16 0x8100 = some .pump ∧ decodeTableWord 16 0x0400 = some .pump ∧
    decodeTableWord 8 0b0001 = some (.complete 1) ∧
    decodeTableWord 0 0 = some .hwreset := by decide

/-- R100: a key of the table is the dispatch key of the transaction it is read as. -/
theorem test_dispatch_key :
    (keyTransaction 0b0001001100).dispatchKey = 0b0001001100#10 ∧
    (keyTransaction 0b1001111111).dispatchKey = 0b1001111111#10 := by decide

/-- R92: a pattern that does not hold selects nothing, and the operation goes on. -/
theorem test_decode_not_selected :
    decode Cfg.ref (.call (.presence 0x20 read8)) = .pass ∧
    decode Cfg.ref (.call (.stage .hotplug 0xFFFFFFE7)) = .pass ∧
    decode Cfg.ref (.call (.stage .errclass 0x00400008)) = .pass ∧
    decode Cfg.ref (.call (.stage .respcap 0xFFFFFFFE)) = .pass ∧
    decode Cfg.ref (.call (.stage .dataend 0xFFFFFFFB)) = .pass ∧
    decode Cfg.ref (.call (.complete 5)) = .reject (.reservedErrorCode 5) := by decide

/-- R113: the `u_op` codes of no operation. -/
theorem test_decode_reserved_selects :
    [6, 7, 10, 11, 12, 13, 14, 15].all (fun u => decodeTableWord 16 (u * 64) == none) = true := by decide

/-! ### One step each -/

/-- R47. -/
theorem test_attach_reset :
    observe (fun t => (t.ifV, t.curV, t.sdioEn, t.history))
      (exec .attachReset { xfer read8 0 4 [] with sdioEn := true, history := [.card] })
      = some (false, false, false, []) := by decide

/-- V41-10. -/
theorem test_submit_read_two_blocks :
    observe State.history (exec (.submit (readReq 18 0 1 8 2 [⟨0, 0, 16⟩])) (idle [0x20])) =
      some [.regRead .irqStatus 0x20, .regWrite .stop 0x0100, .regWrite .blkLen 0x0008,
        .regWrite .blkCount 0x0002, .regWrite .arg 0, .regWrite .cmd 0x3C12] := by decide

/-- V41-7. -/
theorem test_submit_unrecognised_kind :
    observe (fun t => (t.ifV, t.history)) (exec (.submit (cmdNd 8 0 5)) (idle [0x20])) =
      some (true, [.regRead .irqStatus 0x20, .log (.configRk 5), .regWrite .arg 0,
        .regWrite .cmd 0x0008]) := by decide

/-- V41-14, S1. -/
theorem test_submit_stop :
    observe (fun t => (t.ifV, t.history)) (exec (.submitStop (cmdNd 12 0 3)) (idle [0x20])) =
      some (false, [.regRead .irqStatus 0x20, .regWrite .stop 0x0001,
        .done ⟨12, 0, 3, 0xC, 0, 0, 0, 0, none⟩]) := by decide

/-- V41-16: a STOP carrying data. -/
theorem test_submit_stop_with_data :
    observe (fun t => (t.ifV, t.curV, t.history))
      (exec (.submitStop (readReq 12 0 1 8 1 [⟨0, 0, 8⟩])) (idle [0x20])) =
      some (false, false, [.regRead .irqStatus 0x20, .regWrite .stop 0x0001,
        .done ⟨12, 0, 1, 0xC, 0, 0, 0, 0, some ⟨true, 8, 1, [⟨0, 0, 8⟩], 0, 0⟩⟩]) := by decide

/-- V41-6. -/
theorem test_submit_sec52 :
    observe (fun t => (t.ctl.arg, t.ctl.cmd)) (exec (.submitSec52 (cmdNd 52 0 1)) (idle [0x20])) =
      some (0, 0x4434) := by decide

/-- V41-12. -/
theorem test_submit_sec53 :
    observe (fun t => (t.ctl.blkLen, t.ctl.blkCount, t.ctl.arg, t.ctl.cmd))
      (exec (.submitSec53 (readReq 53 0x10 1 4 1 [⟨0, 0, 4⟩])) (idle [0x20])) =
      some (4, 1, 0x10, 0x5C35) := by decide

/-- V41-5. -/
theorem test_submit_app :
    observe (fun t => t.ctl.cmd) (exec (.submitApp (cmdNd 55 0 1)) (idle [0x20])) = some 0x0477 := by decide

/-- S3: no card. -/
theorem test_submit_nocard :
    observe State.history (exec (.submitNocard (cmdNd 17 0 1)) (idle [])) =
      some [.done ⟨17, 0, 1, 0, 0, 0, 0, 1, none⟩] := by decide

/-- Section 2.7: 5 MHz, where the freeze flag begins. -/
theorem test_apply_freeze_boundary :
    observe State.history (exec (.apply 5000000 4 false) (idle [])) =
      some [.regWrite .clkCtl 0x0301, .regWrite .opt 0x40EE, .delay .tSettle] := by decide

/-- Section 2.7: 400 kHz on one bit: divider 40, up to 64, code 16. -/
theorem test_apply_rounds_up :
    observe State.history (exec (.apply 400000 1 false) (idle [])) =
      some [.regWrite .clkCtl 0x0110, .regWrite .opt 0xC0EE, .delay .tSettle] := by decide

/-- R8: a value is truncated to the register's width. -/
theorem test_register_width :
    observe (fun t => t.ctl.clkCtl) (exec (.apply 5000000 4 false)
      { idle [] with cfg := { Cfg.ref with reg := { Cfg.ref.reg with clkCtl := ⟨0x24, 8⟩ } } }) = some 0x01 := by
  decide

/-- Section 2.8. -/
theorem test_get_cd :
    observe State.history (exec .getCd (idle [0xA0])) = some [.regRead .irqStatus 0xA0, .ret true] ∧
    observe State.history (exec .getCd (idle [0x80])) = some [.regRead .irqStatus 0x80, .ret false] := by
  decide
theorem test_get_ro :
    observe State.history (exec .getRo (idle [0xA0])) = some [.regRead .irqStatus 0xA0, .ret true] ∧
    observe State.history (exec .getRo (idle [0x20])) = some [.regRead .irqStatus 0x20, .ret false] := by
  decide
theorem test_sdio_en : observe State.sdioEn (exec (.sdioEn true) (idle [])) = some true := by decide
theorem test_sdio_irq :
    observe State.history (exec .sdioIrq (idle [])) = some [] ∧
    observe State.history (exec .sdioIrq { idle [] with sdioEn := true }) = some [.sdio] := by decide

/-- P2, first batch: the words go out before the response is read. -/
theorem test_irq_pumps_before_response :
    observe State.history
      (exec .irq { xfer write44 0 0 [0x02000021, 0x0200, 0x900] with mem := memP2 }) =
      some [.regRead .irqStatus 0x02000021, .regWrite .irqStatus 0x02000001, .regRead .status2 0x0200,
        .memRead ⟨1, 0⟩ 0xEFBEADDE, .fifoWrite 0xEFBEADDE, .regRead .resp0 0x900] := by decide

/-- V42-22, first batch: an I/O error ends the batch. -/
theorem test_irq_io_error :
    observe (fun t => (t.ifV, t.q.err, t.history)) (exec .irq (busy (cmdNd 8 0x1AA 1) [0x00080020])) =
      some (true, 4, [.regRead .irqStatus 0x00080020, .regWrite .irqStatus 0x00080000,
        .log (.ioErrBits 0x00080000)]) := by decide

/-- P3, the removal, from the reset on: `E_NOMEDIUM` over the timeout that was attached. -/
theorem test_hotplug_removal :
    observe (fun t => (t.ifV, t.curV, t.q.err, t.history.map Event.isDone))
      (exec .hotplug (xfer { read8 with err := 2 } 0 0 [0])) =
      some (false, false, 1, [false, false, true, false]) := by decide

/-- V42-20, from the reset on: the card still present, the request stays in flight. -/
theorem test_hotplug_card_present :
    observe (fun t => (t.ifV, t.q.err, t.history)) (exec .hotplug (busy (cmdNd 13 0 1) [0x20])) =
      some (true, 0, [.hwReset, .regRead .irqStatus 0x20, .card]) := by decide

/-- V42-9, V42-12: the priority of timeout over CRC failure over the rest. -/
theorem test_errclass_priority :
    observe (fun t => (t.q.err, t.history)) (exec (.errclass 0x00420000) (busy read8 [])) = some (2, []) ∧
    observe (fun t => (t.q.err, t.history)) (exec (.errclass 0x80020000) (busy read8 [])) = some (3, []) := by
  decide

/-- V42-16: an unrecognised bit is no error. -/
theorem test_errclass_unrecognised_bit :
    observe (fun t => (t.q.err, t.history)) (exec (.errclass 0x00800000) (busy { read8 with err := 2 } []))
      = some (2, []) := by decide

/-- V43-9: a zero-length segment is stepped over. -/
theorem test_pump_zero_length_segment :
    observe (fun t => (t.curI, t.curO, t.history))
      (exec .pump (xfer { read8 with segs := [⟨0, 0, 0⟩, ⟨1, 0, 8⟩] } 0 0 [0x0300, 7, 9])) =
      some (1, 8, [.regRead .status2 0x0300, .fifoRead 7, .memWrite ⟨1, 0⟩ 7, .fifoRead 9,
        .memWrite ⟨1, 4⟩ 9]) := by decide

/-- P1, second batch, from the pump on: byte order and cursor. -/
theorem test_pump_byte_order :
    observe (fun t => (t.curI, t.curO, t.mem))
      (exec .pump (xfer read8 0 0 [0x0100, 0x44332211, 0x88776655])) =
      some (0, 8, [(0x100, 0x11), (0x101, 0x22), (0x102, 0x33), (0x103, 0x44), (0x104, 0x55),
        (0x105, 0x66), (0x106, 0x77), (0x107, 0x88)]) := by decide

/-- V44-9 with V44-1. -/
theorem test_respcap_long :
    observe (fun t => (t.ifV, t.q.resp0, t.q.resp1, t.q.resp2, t.q.resp3))
      (exec (.respcap 0x21) (busy (cmdNd 2 0 2) [0xDDCCBBAA, 0x44332211, 0x88776655, 0x00FFEE99])) =
      some (false, 0xFFEE9988, 0x77665544, 0x332211DD, 0xCCBBAA00) := by decide

/-- V44-12: a short response keeps the other words. -/
theorem test_respcap_short_keeps_other_words :
    observe (fun t => (t.ifV, t.q.resp0, t.q.resp1, t.q.resp2, t.q.resp3))
      (exec (.respcap 0x01) (busy { cmdNd 13 0 1 with resp0 := 1, resp1 := 2, resp2 := 3, resp3 := 4 } [0x900]))
      = some (false, 0x900, 2, 3, 4) := by decide

/-- V45-4: the largest product. -/
theorem test_dataend_largest_product :
    observe (fun t => (t.ifV, t.q.bytes, t.ctl.stop))
      (exec (.dataend 0x04) (xfer { read8 with blksz := 65532, blocks := 65535 } 0 0 [])) =
      some (false, 0xFFFB0004, 0) := by decide

/-- V45-2: an error was recorded. -/
theorem test_dataend_after_error :
    observe (fun t => (t.ifV, t.q.bytes, t.q.err)) (exec (.dataend 0x04) (xfer { write44 with err := 3 } 1 4 []))
      = some (false, 0, 3) := by decide

/-- V46-3, V46-4. -/
theorem test_complete_keeps_or_replaces_error :
    observe (fun t => (t.ifV, t.q.err)) (exec (.complete 0) (busy { read8 with err := 2 } [])) = some (false, 2) ∧
    observe (fun t => (t.ifV, t.q.err)) (exec (.complete 1) (busy { read8 with err := 2 } [])) = some (false, 1) := by
  decide

/-- V46-1. -/
theorem test_complete_of_empty_slot : exec (.complete 1) (idle []) = .next (idle []) := by rfl

/-- R156: one event, the request and the cursor kept. -/
theorem test_hwreset :
    observe (fun t => (t.ifV, t.q, t.curO, t.history)) (exec .hwreset (xfer read8 0 4 [])) =
      some (true, read8, 4, [.hwReset]) := by decide

/-- V42-4: the acknowledge set of all ones. -/
theorem test_ack_set : ackSet Cfg.ref 0xFFFFFFFF = 0x837F001D ∧ ackSet Cfg.ref 0x7C80FFE2 = 0 ∧
    ackSet { Cfg.ref with ackMode := .constant } 0 = 0x837F001D := by decide

/-- R131 over two steps' worth of state: a busy SUBMIT sets `FAULT`, and a faulted machine stops. -/
theorem test_busy_submit_faults :
    observe (fun t => (t.ifV, t.fault, t.history)) (exec (.submit (cmdNd 13 0x10000 1)) (busy (cmdNd 13 0x10000 1) []))
      = some (true, some .busySubmit, [.log .busySubmit]) ∧
    step { idle [] with fault := some .busySubmit } = .fault .busySubmit := ⟨by decide, rfl⟩

/-- R92, R32: an operation in progress runs its calls, goes on past one that is not selected, and then frees
the lock. -/
theorem test_operation_in_progress :
    observe (fun t => (t.lock, t.calls, t.ifV)) (step (inside (.stage .dataend 0x04) (xfer read8 0 8 [])))
      = some (.held, [], false) ∧
    observe (fun t => (t.lock, t.calls, t.ifV)) (step (inside (.stage .dataend 0x20) (xfer read8 0 8 [])))
      = some (.held, [], true) ∧
    observe State.lock (step { idle [] with lock := .held }) = some .free := by decide

/-! ### Witnesses: for each statement with hypotheses, a state and operands that meet them together -/

/-- P1 in flight, one word moved. -/
def midRead : State := xfer read8 0 4 [0x01000020, 0x0100, 0x88776655]

theorem midRead_inv : Inv midRead where
  cfg := Cfg.ref_valid
  calls _ := rfl
  cursorV := rfl
  cursor _ := by
    refine ⟨by decide, fun g hg => ?_, by decide, fun h => ?_⟩
    · have : g = ⟨0, 0x100, 8⟩ := by simpa [midRead, xfer, busy, read8, readReq, eq_comm] using hg
      subst this
      decide
    · simp [midRead, xfer, busy, read8, readReq] at h
  transfer _ := by decide
  errCode _ := by decide
  derr _ := rfl
  bytes _ := rfl
  mem := by decide

theorem witness_decode_of_encode : Cfg.ref.Valid ∧
    [Instr.submit read8, .submitStop (cmdNd 12 0 3), .submitSec52 (cmdNd 52 0 1), .submitSec53 (cmdNd 53 0 1),
     .submitApp (cmdNd 55 0 1), .submitNocard read8, .apply 31250 4 false, .errclass 0x00420000, .respcap 1,
     .dataend 4, .complete 4].all (Instr.wellFormed Cfg.ref) = true := ⟨Cfg.ref_valid, by decide⟩

theorem witness_submit_row_is_selected_by_opcode :
    [12, 52, 53, 55, 63].all (fun o =>
      match decode Cfg.ref (.port ⟨1, { Operands.zero with req := cmdNd o 0 0 }⟩) with
      | .ok i => i.submitted == some (cmdNd o 0 0)
      | .pass => false
      | .reject _ => false) = true := by decide

theorem witness_step_runs : (midRead.fault = none ∧ midRead.lock = .free) ∧
    (decode Cfg.ref (.port (select 8)) = .ok .irq ∧
     decode Cfg.ref (.port (select 0)) = .ok .attachReset ∧ State.reset.fresh = true ∧
     State.reset.fault = none ∧ State.reset.lock = .free) ∧
    ((inside (.ready 0) midRead).fault = none ∧ (inside (.ready 0) midRead).lock = .held ∧
     decode Cfg.ref (.call (.ready 0)) = .ok .pump ∧
     decode Cfg.ref (.call (.stage .respcap 0x20)) = .pass) := by decide
theorem witness_step_stops :
    ({ midRead with fault := some .busySubmit } : State).fault = some .busySubmit ∧
    (({ midRead with lock := .held } : State).fault = none ∧ ({ midRead with lock := .held } : State).lock = .held ∧
      ({ midRead with lock := .held } : State).calls = []) ∧
    (midRead.fault = none ∧ midRead.lock = .free ∧ midRead.inputs = []) := by decide
theorem witness_port_refuses :
    (select 6).select ∉ Cfg.ref.sel.codes ∧
    ((select 0).select = Cfg.ref.sel.attachReset ∧ midRead.fresh = false ∧ midRead.fault = none ∧
      midRead.lock = .free) := by decide

theorem witness_ill_formed_request :
    (Instr.submitStop { cmdNd 12 0 3 with err := 1 }).submitted = some { cmdNd 12 0 3 with err := 1 } ∧
    requestDefect (idle []).cfg { cmdNd 12 0 3 with err := 1 } = some .cmdError ∧
    exec (.submitNocard { cmdNd 12 0 3 with err := 1 }) (idle []) = .refused (.illFormedRequest .cmdError) :=
  ⟨rfl, by decide, by rfl⟩
theorem witness_no_card_handler : requestDefect Cfg.ref read8 = none ∧ (idle []).ifV = false ∧
    midRead.ifV = true := by decide
theorem witness_busy_submit : requestDefect midRead.cfg (cmdNd 13 0 1) = none ∧ midRead.ifV = true := by decide
theorem witness_submit_without_card : requestDefect (idle [0x80]).cfg (cmdNd 12 0 3) = none ∧
    (idle [0x80]).ifV = false ∧ stBit (regValue .irqStatus (idle [0x80])) (idle [0x80]).cfg.st.present = false := by decide
theorem witness_submit_with_card :
    (idle [0x20]).ifV = false ∧ stBit (regValue .irqStatus (idle [0x20])) (idle [0x20]).cfg.st.present = true ∧
    (requestDefect Cfg.ref (cmdNd 12 0 3) = none ∧ (cmdNd 12 0 3).opc = Cfg.ref.opc.stop) ∧
    (requestDefect Cfg.ref (cmdNd 8 0 5) = none ∧ (cmdNd 8 0 5).opc ≠ Cfg.ref.opc.stop ∧
      (cmdNd 8 0 5).hasData = false) ∧
    (requestDefect Cfg.ref read8 = none ∧ read8.opc ≠ Cfg.ref.opc.stop ∧ read8.hasData = true) ∧
    (requestDefect Cfg.ref write44 = none ∧ 1 < write44.blocks.toNat) := by decide
theorem witness_legal_configuration : Cfg.ref.Valid ∧ Cfg.ref.ackMode = .snapshot ∧
    Cfg.ref.repack = .conventional := ⟨Cfg.ref_valid, rfl, rfl⟩
/-- One case of each branch: busy, no card, stop, no data, one block, more blocks. -/
theorem witness_submit_side_effects :
    completes (exec (.submit (cmdNd 13 0 1)) midRead) = true ∧
    completes (exec (.submit (cmdNd 13 0 1)) (idle [0])) = true ∧
    completes (exec (.submitStop (cmdNd 12 0 3)) (idle [0x20])) = true ∧
    completes (exec (.submit (cmdNd 13 0 1)) (idle [0x20])) = true ∧
    completes (exec (.submit read8) (idle [0x20])) = true ∧
    completes (exec (.submit write44) (idle [0x20])) = true := by decide

/-- The divider at 1, at 2, and at 512, the greatest the code holds. -/
theorem witness_apply_programs :
    Cfg.ref.srcClk / (16000000#32).toNat ≤ 1 ∧
    (1 < Cfg.ref.srcClk / (8000000#32).toNat ∧ Cfg.ref.srcClk / (8000000#32).toNat ≤ 2 ^ 1 ∧
      ∀ j : Nat, Cfg.ref.srcClk / (8000000#32).toNat ≤ 2 ^ j → 1 ≤ j) ∧
    (Cfg.ref.srcClk / (31250#32).toNat ≤ 2 ^ 9 ∧ 2 ^ 9 / 4 < 2 ^ Cfg.ref.clk.codeBits ∧
      ∀ j : Nat, Cfg.ref.srcClk / (31250#32).toNat ≤ 2 ^ j → 9 ≤ j) := by
  refine ⟨by decide, ⟨by decide, by decide, fun j hj => ?_⟩, by decide, by decide, fun j hj => ?_⟩
  · refine Nat.le_of_not_lt fun h => ?_
    have := Nat.pow_le_pow_right (n := 2) (by decide) (Nat.le_of_lt_succ h)
    exact absurd (hj.trans this) (by decide)
  · refine Nat.le_of_not_lt fun h => ?_
    have := Nat.pow_le_pow_right (n := 2) (by decide) (Nat.le_of_lt_succ h)
    exact absurd (hj.trans this) (by decide)
theorem witness_apply_turns_off :
    (1#8 = 1#8 ∧ (0xC0EE#16 : Half) = Cfg.ref.opt.retry ||| Cfg.ref.opt.timeout ||| Cfg.ref.opt.noC2 ||| Cfg.ref.opt.w1)
    ∧ (4#8 = 4#8 ∧ (0x40EE#16 : Half) = Cfg.ref.opt.retry ||| Cfg.ref.opt.timeout ||| Cfg.ref.opt.noC2 ||| Cfg.ref.opt.w4)
    ∧ (25000000#32 = 0#32 ∨ true = true ∧
      ∃ k : Nat, Cfg.ref.srcClk / (25000000#32).toNat ≤ 2 ^ k ∧ 2 ^ k / 4 < 2 ^ Cfg.ref.clk.codeBits) :=
  ⟨by decide, by decide, .inr ⟨rfl, 0, by decide, by decide⟩⟩
theorem witness_apply_unknown_width : 8#8 ≠ 1#8 ∧ 8#8 ≠ 4#8 ∧
    (31250#32 = 0#32 ∨
      ∃ k : Nat, Cfg.ref.srcClk / (31250#32).toNat ≤ 2 ^ k ∧ 2 ^ k / 4 < 2 ^ Cfg.ref.clk.codeBits) :=
  ⟨by decide, by decide, .inr ⟨9, by decide, by decide⟩⟩
/-- Both sides of the boundary: dividers 512 and 513. -/
theorem witness_apply_refuses :
    (idle []).cfg.clk = Cfg.ref.clk ∧
    (0 < (31250#32).toNat ∧ (idle []).cfg.srcClk / (31250#32).toNat = 512) ∧
    (0 < (31188#32).toNat ∧ (idle []).cfg.srcClk / (31188#32).toNat = 513) := by decide

theorem witness_complete : midRead.ifV = true ∧ (idle []).ifV = false := by decide
theorem witness_spurious : (idle [0x00400021]).ifV = false ∧
    hotplugEvent Cfg.ref (regValue .irqStatus (idle [0x00400021])) = false := by decide
theorem witness_error_abort :
    (busy read8 [0x00020020]).ifV = true ∧ hotplugEvent Cfg.ref (regValue .irqStatus (busy read8 [0x00020020])) = false ∧
    classify Cfg.ref (regValue .irqStatus (busy read8 [0x00020020])) = .dataIntegrity ∧
    hotplugEvent Cfg.ref (regValue .irqStatus (busy read8 [0x80000000])) = false ∧
    classify Cfg.ref (regValue .irqStatus (busy read8 [0x80000000])) = .io := by decide
/-- V42-21 (timeout, `R32`), V45-7's second batch (data-end beside it) with `R32B`, and the other kinds. -/
theorem witness_response_ready_batch :
    (busy (cmdNd 8 0x1AA 1) [0x00400021, 0]).q.hasData = false ∧
    hotplugEvent Cfg.ref 0x00400021 = false ∧ classify Cfg.ref 0x00400021 = .timeout ∧
    stBit 0x00400021 Cfg.ref.st.respEnd = true ∧ (cmdNd 8 0x1AA 1).rk = Cfg.ref.rk.r32 ∧
    (hotplugEvent Cfg.ref 0x00000025 = false ∧ classify Cfg.ref 0x00000025 = .noError ∧
      stBit 0x00000025 Cfg.ref.st.respEnd = true ∧ (cmdNd 7 0 3).rk = Cfg.ref.rk.r32b) ∧
    (cmdNd 0 0 0).rk = Cfg.ref.rk.none ∧ (cmdNd 2 0 2).rk = Cfg.ref.rk.r136 ∧
    (cmdNd 8 0 5).rk ∉ [Cfg.ref.rk.none, Cfg.ref.rk.r32, Cfg.ref.rk.r136, Cfg.ref.rk.r32b] := by decide
theorem witness_batch_order :
    midRead.ifV = true ∧ hotplugEvent midRead.cfg (regValue .irqStatus midRead) = false ∧
    classify midRead.cfg (regValue .irqStatus midRead) = .noError ∧
    (hotplugEvent Cfg.ref 0x00400024 = false ∧ classify Cfg.ref 0x00400024 = .timeout) := by decide
theorem witness_hotplug_batch :
    hotplugEvent Cfg.ref (regValue .irqStatus (busy read8 [0x00000008, 0])) = true ∧
    hotplugEvent Cfg.ref (regValue .irqStatus (busy read8 [0x00000035, 0x20])) = true := by decide
theorem witness_errclass :
    (midRead.ifV = true ∧ hotplugEvent midRead.cfg 0x00420000 = false) ∧
    ((idle []).ifV = false ∨ hotplugEvent (idle []).cfg 0x00420000 = true) ∧
    (midRead.ifV = false ∨ hotplugEvent midRead.cfg 0x00020008 = true) := by decide
theorem witness_acknowledge : (ackSet Cfg.ref 0xFFFFFFFF).getLsbD 31 = true := by decide

/-- V43-11 and an empty slot; V43-2 and V43-5: only the other direction's flag is set. -/
theorem witness_pump_no_op :
    ((idle []).ifV = false ∧ (busy (cmdNd 13 0 1) []).q.hasData = false) ∧
    ((xfer read8 0 0 [0x0200]).q.dir = true ∧
      (regValue .status2 (xfer read8 0 0 [0x0200])).getLsbD Cfg.ref.s2.rxRdy.val = false) ∧
    ((xfer write44 0 0 [0x0100]).q.dir = false ∧
      (regValue .status2 (xfer write44 0 0 [0x0100])).getLsbD Cfg.ref.s2.txNf.val = false) := by decide
/-- V43-6, and the cursor at the end already. -/
theorem witness_pump_exhausted :
    (xfer read8 0 8 [0x0100]).ifV = true ∧ read8.hasData = true ∧
    (regValue .status2 (xfer read8 0 8 [0x0100])).getLsbD Cfg.ref.s2.rxRdy.val = true ∧
    (∃ g, read8.segs[0]? = some g ∧ g.len.toNat ≤ (8#32).toNat) ∧
    (∀ j g, 0 < j → read8.segs[j]? = some g → g.len = 0#32) ∧
    read8.segs.length ≤ (xfer read8 1 0 [0x0100]).curI := by
  refine ⟨rfl, rfl, by decide, ⟨_, rfl, by decide⟩, fun j g hj hg => ?_, by decide⟩
  have : j < 1 := (List.getElem?_eq_some_iff.1 hg).1
  omega
/-- V43-1 (the cursor's own segment) and V43-4 (the next one, from a consumed segment). -/
theorem witness_pump_moves_words :
    Memory.wf (xfer read8 0 0 [0x0100]).mem ∧ (xfer read8 0 0 [0x0100]).ifV = true ∧
    read8.hasData = true ∧ read8.dir = true ∧
    (regValue .status2 (xfer read8 0 0 [0x0100])).getLsbD Cfg.ref.s2.rxRdy.val = true ∧
    read8.segs[0]? = some ⟨0, 0x100, 8⟩ ∧ (0#32).toNat < (8#32).toNat ∧
    (xfer write44 0 4 [0x0200]).ifV = true ∧ write44.hasData = true ∧ write44.dir = false ∧
    (regValue .status2 (xfer write44 0 4 [0x0200])).getLsbD Cfg.ref.s2.txNf.val = true ∧
    write44.segs[1]? = some ⟨2, 8, 4⟩ ∧ (0 < 1 ∧ (∃ h, write44.segs[0]? = some h ∧ h.len.toNat ≤ (4#32).toNat) ∧
      ∀ j h, 0 < j → j < 1 → write44.segs[j]? = some h → h.len = 0#32) := by
  refine ⟨by decide, rfl, rfl, rfl, by decide, rfl, by decide, rfl, rfl, rfl, by decide, rfl, by decide,
    ⟨_, rfl, by decide⟩, fun j h h0 h1 => ?_⟩
  omega
theorem witness_scatter_memory : Memory.wf memP2 := by decide
theorem witness_pump_under_invariant :
    Inv midRead ∧ midRead.curV = true ∧ completes (exec .pump midRead) = true ∧
    completes (exec .irq midRead) = true := ⟨midRead_inv, rfl, by decide, by decide⟩

theorem witness_response_kinds :
    stBit 0x21 Cfg.ref.st.respEnd = true ∧ midRead.ifV = true ∧
    (cmdNd 13 0 1).rk = Cfg.ref.rk.r32 ∧ (cmdNd 7 0 3).rk = Cfg.ref.rk.r32b ∧ (cmdNd 2 0 2).rk = Cfg.ref.rk.r136 ∧
    (∀ k ∈ [(0 : BitVec 3), 5], k ≠ Cfg.ref.rk.r32 ∧ k ≠ Cfg.ref.rk.r136 ∧ k ≠ Cfg.ref.rk.r32b) := by decide
theorem witness_response_logged :
    stBit 0x20 Cfg.ref.st.respEnd = false ∧ stBit 0x01 Cfg.ref.st.respEnd = true ∧ (idle []).ifV = false := by decide
theorem witness_data_end :
    midRead.ifV = true ∧ midRead.q.hasData = true ∧ stBit 0x04 Cfg.ref.st.dataEnd = true := by decide
theorem witness_data_end_spurious :
    stBit 0x20 Cfg.ref.st.dataEnd = false ∧ stBit 0x04 Cfg.ref.st.dataEnd = true ∧ (idle []).ifV = false ∧
    (busy (cmdNd 8 0 1) []).q.hasData = false := by decide

theorem witness_step_keeps_invariant :
    (Inv { midRead with inputs := [select 8] } ∧ completes (step { midRead with inputs := [select 8] }) = true) ∧
    (Inv (inside (.ready 0) midRead) ∧ completes (step (inside (.ready 0) midRead)) = true) := by
  obtain ⟨h1, h2, h3, h4, h5, h6, h7, h8, h9⟩ := midRead_inv
  exact ⟨⟨⟨h1, h2, h3, h4, h5, h6, h7, h8, h9⟩, by decide⟩,
    ⟨h1, nofun, h3, h4, h5, h6, h7, h8, h9⟩, by decide⟩
/-- A SUBMIT that fills the slot, a batch that empties it, a busy SUBMIT, and a sub-handler alone. -/
theorem witness_operations_complete :
    observe State.ifV (exec (.submit read8) (idle [0x20])) = some true ∧
    observe State.ifV (exec (.dataend 0x04) midRead) = some false ∧
    (Instr.submit read8).submitted.isSome = true ∧
    completes (exec (.submit read8) midRead) = true ∧ completes (exec .irq midRead) = true ∧
    (Instr.irq.agent ≠ .sequencer ∧ (Instr.dataend 4).agent = .sequencer) := by decide
theorem witness_recorded_error : Cfg.ref.Valid ∧ (busy { read8 with err := 2 } [0x00000024, 0]).q.err ≠ 0#4 ∧
    completes (exec .irq (busy { read8 with err := 2 } [0x00000024, 0])) = true :=
  ⟨Cfg.ref_valid, by decide, by decide⟩
theorem witness_memory_kept :
    completes (exec .hwreset midRead) = true ∧
    ((xfer write44 0 0 [0x20, 0x0200]).q.dir = false ∧ completes (exec .irq (xfer write44 0 0 [0x20, 0x0200])) = true) ∧
    ((busy (cmdNd 13 0 1) [0x20]).q.hasData = false ∧ completes (exec .pump (busy (cmdNd 13 0 1) [0x20])) = true) ∧
    ((idle [0x20]).ifV = false ∧ completes (exec .irq (idle [0x20])) = true) := by decide

end Sys2Proof.Tests
end

section
/-! PROOFS. The state and the whole machine: what reset leaves, what the port admits, what each instruction leaves
alone, the invariant of R273 kept by every step, the writes of the latch file (R24), and the events of the
history (R34, R35, R65). -/

namespace Sys2Proof.Machine

/-! ### Reset and admission (R47, R28, R93) -/

/-- Settles O8: each clause is a field of the reset state. -/
theorem resetLeavesSlotEmptyAndNothingPending : Obligations.ResetLeavesSlotEmptyAndNothingPending :=
  ⟨rfl, rfl, rfl, rfl, rfl, rfl, rfl, rfl⟩

/-- Settles O4: the two case lemmas of admission, with alignment, range and overlap read as numbers. -/
theorem admittedDescriptorsAreTheWellFormedOnes : Obligations.AdmittedDescriptorsAreTheWellFormedOnes := by
  unfold Obligations.AdmittedDescriptorsAreTheWellFormedOnes
  intro c r
  have hblocks : r.blocks ≠ 0#16 ↔ 1 ≤ r.blocks.toNat := by
    rw [← BitVec.toNat_ne_iff_ne]
    simp [Nat.one_le_iff_ne_zero]
  have hnseg : r.nseg ≠ 0 ↔ 1 ≤ r.segs.length := Nat.one_le_iff_ne_zero.symm
  rw [requestDefect_eq_none_iff, transferDefect_eq_none_iff, hblocks, hnseg, segmentsDisjoint_iff]
  simp only [Segment.disjoint_iff, Segment.aligned, Segment.inRange, Bool.and_eq_true, beq_iff_eq,
    decide_eq_true_eq, totalLen, and_assoc]

/-- Settles O10: the five SUBMIT rows share `submitOp` (R100), and the no-card path makes the same check
(log 15). -/
theorem illFormedRequestIsRefused : Obligations.IllFormedRequestIsRefused := by
  unfold Obligations.IllFormedRequestIsRefused
  rintro s i req d (hi | rfl) hd
  · rw [exec_submitted hi, submitOp_of_defect hd]
  · simp [exec, execSubmitNocard, hd]

/-! ### What an instruction leaves alone -/

theorem frame_hwReset (s : State) : HandlerFrame s (hwReset s) :=
  ⟨rfl, rfl, rfl, rfl, rfl, rfl, rfl, rfl, id⟩

/-- The snapshot's read and acknowledge are the controller's (R151, R152). -/
theorem frame_afterAck (s : State) : HandlerFrame (acquire s) (afterAck s) :=
  ⟨rfl, rfl, rfl, rfl, rfl, rfl, rfl, rfl, id⟩

/-- The writes of APPLY are the controller's (R206, R207). -/
theorem frame_applyWrites (clk opt : Half) (s : State) : HandlerFrame s (applyWrites clk opt s) :=
  ((frame_regWrite .clkCtl _ s).trans (frame_regWrite .opt _ _)).trans (frame_emit _ _)

/-- The latch file after a handler: response words, error and byte count apart, the one before. -/
theorem HandlerFrame.q_eq {s t : State} (h : HandlerFrame s t) : ∃ r0 r1 r2 r3 err bytes, t.q =
    { s.q with resp0 := r0, resp1 := r1, resp2 := r2, resp3 := r3, err := err, bytes := bytes } := by
  rw [← h.request]
  exact ⟨t.q.resp0, t.q.resp1, t.q.resp2, t.q.resp3, t.q.err, t.q.bytes, rfl⟩

theorem HandlerFrame.hasData {s t : State} (h : HandlerFrame s t) : t.q.hasData = s.q.hasData := by
  obtain ⟨_, _, _, _, _, _, hq⟩ := h.q_eq
  rw [hq]

theorem HandlerFrame.dir {s t : State} (h : HandlerFrame s t) : t.q.dir = s.q.dir := by
  obtain ⟨_, _, _, _, _, _, hq⟩ := h.q_eq
  rw [hq]

/-- A slot found occupied after a handler was occupied before it. -/
theorem HandlerFrame.ifV_of_ifV {s t : State} (h : HandlerFrame s t) (ht : t.ifV = true) : s.ifV = true := by
  cases hv : s.ifV
  · exact absurd ((h.slot hv).symm.trans ht) (by decide)
  · rfl

/-- APPLY, the queries, IRQ and SDIO_IRQ run under the lock and free it (R32, D33). -/
theorem exec_frame_locked {s t : State} {i : Instr} (h : exec i s = .next t) (hi : i.agent ≠ .sequencer)
    (hr : i ≠ .attachReset) (hs : i.submitted = none) (he : ∀ en, i ≠ .sdioEn en) :
    ∃ u, HandlerFrame (acquire s) u ∧ t = release u := by
  cases i with
  | apply hz width off =>
    obtain ⟨clk, -, ⟨-, rfl⟩ | ⟨opt, -, rfl⟩⟩ := execApply_next h
    · exact ⟨_, frame_emit _ _, rfl⟩
    · exact ⟨_, frame_applyWrites clk opt _, rfl⟩
  | getCd => cases h; exact ⟨_, (frame_regRead _ _).trans (frame_emit _ _), rfl⟩
  | getRo => cases h; exact ⟨_, (frame_regRead _ _).trans (frame_emit _ _), rfl⟩
  | irq => cases h; exact ⟨_, frame_batch s, rfl⟩
  | sdioIrq =>
    cases h
    refine ⟨_, ?_, rfl⟩
    split
    · exact frame_emit _ _
    · exact .refl _
  | attachReset => exact absurd rfl hr
  | sdioEn en => exact absurd rfl (he en)
  | submit req | submitStop req | submitSec52 req | submitSec53 req | submitApp req => cases hs
  | submitNocard req | hotplug | errclass st | pump | respcap st | dataend st | complete e | hwreset =>
    exact absurd rfl hi

/-- A sub-handler or helper of R92, run by itself inside an operation in progress. -/
theorem exec_frame_sequencer {s t : State} {i : Instr} (h : exec i s = .next t) (hi : i.agent = .sequencer) :
    HandlerFrame s t := by
  cases i with
  | submitNocard req =>
    obtain ⟨-, rfl⟩ := execSubmitNocard_next h
    split
    · exact .refl s
    · exact frame_emit _ s
  | hotplug => cases h; exact frame_hotplugOp s
  | errclass st =>
    cases h
    split
    · exact frame_errclassOp st s
    · exact .refl s
  | pump => cases h; exact frame_pumpOp s
  | respcap st => cases h; exact frame_respcapOp st s
  | dataend st => cases h; exact frame_dataendOp st s
  | complete e => cases h; exact frame_completeOp e s
  | hwreset => cases h; exact frame_hwReset s
  | attachReset | submit req | submitStop req | submitSec52 req | submitSec53 req | submitApp req
  | apply hz width off | getCd | getRo | sdioEn en | irq | sdioIrq => cases hi

/-- The stack selects the SUBMIT rows (R91, R100). -/
theorem agent_of_submitted {i : Instr} {req : Request} (h : i.submitted = some req) : i.agent ≠ .sequencer := by
  cases i <;> simp [Instr.submitted, Instr.agent] at h ⊢

/-- Everything an instruction that takes a step can do to the sequencer's control state: the reset, a SUBMIT
row, the SDIO enable, an operation under the lock, or a sub-handler inside one. -/
theorem exec_cases {s t : State} {i : Instr} (h : exec i s = .next t) :
    (i = .attachReset ∧ t = attachResetOp s) ∨
    (∃ req, i.submitted = some req ∧ i.agent ≠ .sequencer) ∨
    (∃ en, i = .sdioEn en ∧ t = release (setSdioEn en (acquire s))) ∨
    (i.agent ≠ .sequencer ∧ i ≠ .attachReset ∧ i.submitted = none ∧
      ∃ u, HandlerFrame (acquire s) u ∧ t = release u) ∨
    (i.agent = .sequencer ∧ i ≠ .attachReset ∧ i.submitted = none ∧ HandlerFrame s t) := by
  by_cases hr : i = .attachReset
  · subst hr
    cases h
    exact .inl ⟨rfl, rfl⟩
  by_cases he : ∃ en, i = .sdioEn en
  · obtain ⟨en, rfl⟩ := he
    cases h
    exact .inr (.inr (.inl ⟨en, rfl, rfl⟩))
  cases hs : i.submitted with
  | some req => exact .inr (.inl ⟨req, rfl, agent_of_submitted hs⟩)
  | none =>
    by_cases ha : i.agent = .sequencer
    · exact .inr (.inr (.inr (.inr ⟨ha, hr, rfl, exec_frame_sequencer h ha⟩)))
    · exact .inr (.inr (.inr (.inl ⟨ha, hr, rfl,
        exec_frame_locked h ha hr hs fun en e => he ⟨en, e⟩⟩)))

/-- Settles O56, by the instruction's case of `exec_cases`. -/
theorem configurationEnableAndLock : Obligations.ConfigurationEnableAndLock := by
  unfold Obligations.ConfigurationEnableAndLock
  intro s t i h
  rcases exec_cases h with
    ⟨rfl, rfl⟩ | ⟨req, hs, ha⟩ | ⟨en, rfl, rfl⟩ | ⟨ha, hr, -, u, hf, rfl⟩ | ⟨ha, hr, -, hf⟩
  · simp [attachResetOp, Instr.agent]
  · obtain ⟨hcfg, hen, hlock, hin, hcalls, hfresh, -⟩ := submit_frame hs h
    have hr : i ≠ .attachReset := by
      rintro rfl
      cases hs
    simp [*]
  · simp [Instr.agent]
  · simp [ha, hr, hf.cfg, hf.sdioEn, hf.inputs, hf.calls, hf.fresh]
  · simp [ha, hr, hf.cfg, hf.sdioEn, hf.lock, hf.inputs, hf.calls, hf.fresh]

/-- Settles O54: an operation under the lock and a sub-handler leave an empty slot empty. -/
theorem onlySubmitFillsTheSlot : Obligations.OnlySubmitFillsTheSlot := by
  unfold Obligations.OnlySubmitFillsTheSlot
  intro s t i h hv ht
  rcases exec_cases h with
    ⟨rfl, rfl⟩ | ⟨req, hs, -⟩ | ⟨en, rfl, rfl⟩ | ⟨-, -, -, u, hf, rfl⟩ | ⟨-, -, -, hf⟩
  · cases ht
  · obtain ⟨-, -, -, -, -, -, -, -, -, hq⟩ := submit_frame hs h
    exact ⟨req, hs, hq hv ht⟩
  · exact absurd (hv.symm.trans ht) (by decide)
  · exact absurd ((hf.slot hv).symm.trans ht) (by decide)
  · exact absurd ((hf.slot hv).symm.trans ht) (by decide)

/-! ### The invariant of R273 -/

/-- Settles O51: `CFG_REF` is legal, the slot is empty and memory lists nothing. -/
theorem invariantHoldsAtReset : Obligations.InvariantHoldsAtReset where
  inv := {
    cfg := Cfg.ref_valid
    calls := fun _ => rfl
    cursorV := rfl
    cursor := nofun
    transfer := nofun
    errCode := nofun
    derr := nofun
    bytes := nofun
    mem := ⟨.nil, nofun⟩ }
  fault := rfl

/-- A change of no field that the invariant speaks of, but for the lock, keeps it. -/
theorem Inv.congr {s t : State} (h : Inv s) (hcfg : t.cfg = s.cfg) (hcalls : t.lock = .free → t.calls = [])
    (hifV : t.ifV = s.ifV) (hq : t.q = s.q) (hcurV : t.curV = s.curV) (hcurI : t.curI = s.curI)
    (hcurO : t.curO = s.curO) (hmem : t.mem = s.mem) : Inv t where
  cfg := hcfg ▸ h.cfg
  calls := hcalls
  cursorV := by rw [hcurV, hifV, hq, h.cursorV]
  cursor := by rw [hcurV, hq, hcurI, hcurO]; exact h.cursor
  transfer := by rw [hcurV, hcfg, hq]; exact h.transfer
  errCode := by rw [hifV, hcfg, hq]; exact h.errCode
  derr := by rw [hifV, hq]; exact h.derr
  bytes := by rw [hifV, hq]; exact h.bytes
  mem := hmem ▸ h.mem

/-- With the slot empty the invariant is about the configuration, the lock and memory alone. -/
theorem Inv.of_empty {s : State} (hcfg : s.cfg.Valid) (hcalls : s.lock = .free → s.calls = [])
    (hifV : s.ifV = false) (hcurV : s.curV = false) (hmem : Memory.wf s.mem) : Inv s where
  cfg := hcfg
  calls := hcalls
  cursorV := by simp [hifV, hcurV]
  cursor := by simp [hcurV]
  transfer := by simp [hcurV]
  errCode := by simp [hifV]
  derr := by simp [hifV]
  bytes := by simp [hifV]
  mem := hmem

theorem Inv.curV_eq_false {s : State} (h : Inv s) (hv : s.ifV = false) : s.curV = false := by
  simp [h.cursorV, hv]

theorem inv_acquire {s : State} (h : Inv s) : Inv (acquire s) :=
  h.congr rfl nofun rfl rfl rfl rfl rfl rfl

theorem inv_release {s : State} (h : Inv s) (hc : s.calls = []) : Inv (release s) :=
  h.congr rfl (fun _ => hc) rfl rfl rfl rfl rfl rfl

theorem inv_raise {s : State} (f : Fault) (h : Inv s) : Inv (raise f s) :=
  h.congr rfl h.calls rfl rfl rfl rfl rfl rfl

theorem inv_emit {s : State} (e : Event) (h : Inv s) : Inv (emit e s) :=
  h.congr rfl h.calls rfl rfl rfl rfl rfl rfl

theorem inv_regRead {s : State} (r : RegName) (h : Inv s) : Inv (regRead r s) :=
  h.congr rfl h.calls rfl rfl rfl rfl rfl rfl

theorem inv_regWrite {s : State} (r : RegName) (v : Word) (h : Inv s) : Inv (regWrite r v s) :=
  h.congr rfl h.calls rfl rfl rfl rfl rfl rfl

theorem inv_hwReset {s : State} (h : Inv s) : Inv (hwReset s) :=
  h.congr rfl h.calls rfl rfl rfl rfl rfl rfl

theorem inv_attachResetOp {s : State} (h : Inv s) : Inv (attachResetOp s) :=
  .of_empty h.cfg (fun _ => rfl) rfl rfl h.mem

theorem inv_completeOp {s : State} (e : BitVec 4) (h : Inv s) : Inv (completeOp e s) := by
  cases hv : s.ifV
  · rwa [completeOp_of_empty e hv]
  · rw [completeOp_of_inFlight e hv]
    exact .of_empty h.cfg h.calls rfl rfl h.mem

theorem inv_hotplugOp {s : State} (h : Inv s) : Inv (hotplugOp s) := by
  have h1 : Inv (regRead .irqStatus (hwReset s)) := inv_regRead _ (inv_hwReset h)
  refine inv_emit _ ?_
  split
  · exact h1
  · exact inv_completeOp _ h1

/-- The code attached is one of the configuration's (R96, R118). -/
theorem inv_errclassOp {s : State} (st : Word) (h : Inv s) : Inv (errclassOp st s) := by
  have hlog : Inv (logIoError st s) := by
    unfold logIoError
    split
    · exact inv_emit _ h
    · exact h
  have hcode : (classify s.cfg st).code s.cfg ∈ (logIoError st s).cfg.err.codes := by
    have hcfg : (logIoError st s).cfg = s.cfg := by
      unfold logIoError
      split <;> rfl
    rw [hcfg]
    exact code_mem_codes _ _
  unfold errclassOp attachError
  split
  · exact hlog
  · exact ⟨hlog.cfg, hlog.calls, hlog.cursorV, hlog.cursor, hlog.transfer, fun _ => hcode, hlog.derr,
      hlog.bytes, hlog.mem⟩

theorem inv_setResp {s : State} (w : Word × Word × Word × Word) (h : Inv s) : Inv (setResp w s) :=
  ⟨h.cfg, h.calls, h.cursorV, h.cursor, h.transfer, h.errCode, h.derr, h.bytes, h.mem⟩

theorem inv_captureShort {s : State} (h : Inv s) : Inv (captureShort s) :=
  inv_setResp (_, s.q.resp1, s.q.resp2, s.q.resp3) (inv_regRead .resp0 h)

theorem inv_capture {s : State} (h : Inv s) : Inv (capture s) := by
  unfold capture
  split
  · exact h
  · exact inv_captureShort h
  · exact inv_captureShort h
  · exact inv_setResp _ (inv_regRead _ (inv_regRead _ (inv_regRead _ (inv_regRead _ h))))
  · exact inv_setResp _ (s := { s with draws := s.draws + 4 }) (h.congr rfl h.calls rfl rfl rfl rfl rfl rfl)

theorem inv_respcapOp {s : State} (st : Word) (h : Inv s) : Inv (respcapOp st s) := by
  unfold respcapOp
  split
  · split
    · unfold completeUnlessData
      split
      · exact inv_capture h
      · exact inv_completeOp _ (inv_capture h)
    · exact inv_emit _ h
  · exact h

theorem inv_dataendOp {s : State} (st : Word) (h : Inv s) : Inv (dataendOp st s) := by
  unfold dataendOp
  split
  · split
    · rename_i hact
      rw [finishTransfer_eq (Bool.and_eq_true_iff.1 hact).1]
      exact .of_empty h.cfg h.calls rfl rfl h.mem
    · exact inv_emit _ h
  · exact h

/-! PUMP moves the cursor and stores to memory; with a well-formed transfer the cursor stays in its segment. -/

/-- A pump cycle's length is a multiple of 4 and fits the segment from the cursor on (R175, R28.2). -/
theorem cursorOk_consume {s : State} {g : Segment} (hc : CursorOk s.q.segs s.curI s.curO)
    (hw : transferDefect s.cfg s.q = none) (hg : s.q.segs[s.curI]? = some g) :
    CursorOk s.q.segs s.curI (BitVec.ofNat 32 (s.curO.toNat + pumpLen s g)) := by
  obtain ⟨⟨-, hblk⟩, -, -, hal, -, -, -⟩ := (transferDefect_eq_none_iff _ _).1 hw
  have hlen : g.len.toNat % 4 = 0 := by
    have := hal g (List.mem_of_getElem? hg)
    simp only [Segment.aligned, Bool.and_eq_true, beq_iff_eq] at this
    exact this.2
  have hle : s.curO.toNat ≤ g.len.toNat := hc.offset g hg
  have hmod := hc.aligned
  have hlt := g.len.isLt
  have hp : s.curO.toNat + pumpLen s g ≤ g.len.toNat ∧ (s.curO.toNat + pumpLen s g) % 4 = 0 := by
    unfold pumpLen
    omega
  have ho : (BitVec.ofNat 32 (s.curO.toNat + pumpLen s g)).toNat = s.curO.toNat + pumpLen s g := by
    rw [BitVec.toNat_ofNat, Nat.mod_eq_of_lt (by omega)]
  refine ⟨hc.index, fun f hf => ?_, by rw [ho]; exact hp.2, fun hn => ?_⟩
  · rw [hg] at hf
    cases hf
    rw [ho]
    exact hp.1
  · rw [hg] at hn
    cases hn

/-- The advance loop keeps the invariant (R173). -/
theorem inv_advanceCursor {s : State} (h : Inv s) (hc : s.curV = true) : Inv (advanceCursor s) :=
  ⟨h.cfg, h.calls, h.cursorV, fun _ => (advanced_spec (h.cursor hc)).1, h.transfer, h.errCode, h.derr, h.bytes,
    h.mem⟩

/-- The word moves of one cycle, with the bytes marked consumed, keep the invariant (R174 to R176). -/
theorem inv_pumpBlock {s : State} (h : Inv s) (hc : s.curV = true) : Inv (pumpBlock s) := by
  unfold pumpBlock
  split
  · exact h
  · rename_i g hg
    have hf := moveWords_frame (pumpLen s g / 4) (pumpAddr s g) s
    have hcur := cursorOk_consume (h.cursor hc) (h.transfer hc) hg
    constructor
    case mem => exact moveWords_wf _ _ h.mem
    case cursor => simpa using fun _ => hcur
    case cfg => simpa using h.cfg
    case calls => simpa using h.calls
    case cursorV => simpa using h.cursorV
    case transfer => simpa using h.transfer
    case errCode => simpa using h.errCode
    case derr => simpa using h.derr
    case bytes => simpa using h.bytes

theorem inv_pumpOp {s : State} (h : Inv s) : Inv (pumpOp s) := by
  have hread : Inv (regRead .status2 s) := inv_regRead _ h
  obtain ⟨-, he⟩ | ⟨-, -, he⟩ | ⟨ht, -, he⟩ := pumpOp_cases s
  · rwa [he]
  · rwa [he]
  · have hc : s.curV = true := by
      rw [h.cursorV]
      exact ht
    rw [he]
    exact inv_pumpBlock (inv_advanceCursor hread hc) hc

theorem inv_handleInOrder {s : State} (st : Word) (h : Inv s) : Inv (handleInOrder st s) :=
  inv_dataendOp st (inv_respcapOp st (inv_pumpOp h))

theorem inv_dispatchBatch {s : State} (st : Word) (h : Inv s) : Inv (dispatchBatch st s) := by
  have herr := inv_errclassOp st h
  unfold dispatchBatch batchForRequest
  split
  · exact inv_hotplugOp h
  · split
    · split
      · exact herr
      · exact inv_handleInOrder st herr
    · exact h

/-- The register program of a well-formed request just latched builds a cursor at the start of its list,
exactly with data (R27, R139). -/
theorem inv_registerProgram_latch {s : State} {req : Request} (h : Inv s) (hv : s.ifV = false)
    (hw : requestDefect s.cfg req = none) : Inv (registerProgram (latch req s)) := by
  obtain ⟨-, herr, hderr, hbytes, htr⟩ := (requestDefect_eq_none_iff _ _).1 hw
  have hcur : s.curV = false := h.curV_eq_false hv
  rw [registerProgram_eq]
  refine ⟨h.cfg, h.calls, ?_, ?_, ?_, fun _ => ?_, fun _ => hderr, fun _ => hbytes, h.mem⟩
  · simp [hcur]
  · simp only [latch_q, latch_curV, hcur, Bool.or_false]
    intro hd
    simp only [hd, if_true]
    exact ⟨Nat.zero_le _, fun g _ => Nat.zero_le _, rfl, fun _ => rfl⟩
  · simpa [hcur] using htr
  · simp [herr, ErrCfg.codes, eNone]

/-- Each of the four ways through SUBMIT keeps the invariant. -/
theorem inv_submit {s t : State} {i : Instr} {req : Request} (h : Inv s) (hi : i.submitted = some req)
    (he : exec i s = .next t) (hc : s.calls = []) : Inv t := by
  have hread : Inv (regRead .irqStatus (acquire s)) := inv_regRead _ (inv_acquire h)
  obtain ⟨hw, ⟨-, rfl⟩ | ⟨-, -, rfl⟩ | ⟨hv, -, -, rfl⟩ | ⟨hv, -, -, rfl⟩⟩ := submit_cases hi he
  · exact inv_release (inv_raise _ (inv_emit _ (inv_acquire h))) hc
  · exact inv_release (inv_emit _ hread) hc
  · rw [stopOp_eq rfl]
    exact .of_empty h.cfg (fun _ => hc) rfl rfl h.mem
  · refine inv_release (inv_registerProgram_latch hread hv hw) ?_
    rw [registerProgram_eq]
    exact hc

/-- An operation run under the lock, or a sub-handler of it, keeps the invariant. -/
theorem exec_keeps_inv {s t : State} {i : Instr} (h : Inv s) (he : exec i s = .next t)
    (hc : i.agent ≠ .sequencer → s.calls = []) : Inv t := by
  have hacq := inv_acquire h
  have hread := inv_regRead .irqStatus hacq
  cases i with
  | attachReset => cases he; exact inv_attachResetOp h
  | submit req | submitStop req | submitSec52 req | submitSec53 req | submitApp req =>
    exact inv_submit h rfl he (hc nofun)
  | apply hz width off =>
    obtain ⟨clk, -, ⟨-, rfl⟩ | ⟨opt, -, rfl⟩⟩ := execApply_next he
    · exact inv_release (inv_emit _ hacq) (hc nofun)
    · exact inv_release (inv_emit _ (inv_regWrite _ _ (inv_regWrite _ _ hacq))) (hc nofun)
  | getCd => cases he; exact inv_release (inv_emit _ hread) (hc nofun)
  | getRo => cases he; exact inv_release (inv_emit _ hread) (hc nofun)
  | sdioEn en => cases he; exact h.congr rfl (fun _ => hc nofun) rfl rfl rfl rfl rfl rfl
  | irq =>
    cases he
    exact inv_release (inv_dispatchBatch _ (inv_regWrite _ _ hread)) ((frame_batch s).calls.trans (hc nofun))
  | sdioIrq =>
    cases he
    split
    · exact inv_release (inv_emit _ hacq) (hc nofun)
    · exact inv_release hacq (hc nofun)
  | submitNocard req =>
    obtain ⟨-, rfl⟩ := execSubmitNocard_next he
    split
    · exact h
    · exact inv_emit _ h
  | hotplug => cases he; exact inv_hotplugOp h
  | errclass st =>
    cases he
    split
    · exact inv_errclassOp st h
    · exact h
  | pump => cases he; exact inv_pumpOp h
  | respcap st => cases he; exact inv_respcapOp st h
  | dataend st => cases he; exact inv_dataendOp st h
  | complete e => cases he; exact inv_completeOp e h
  | hwreset => cases he; exact inv_hwReset h

/-- Settles O52: a step runs one instruction from the state with its selection taken, or frees the lock with
no call left, or stands still. -/
theorem everyStepKeepsTheInvariant : Obligations.EveryStepKeepsTheInvariant := by
  unfold Obligations.EveryStepKeepsTheInvariant
  intro s t h he
  have htake : Inv (takeCall s) :=
    h.congr rfl (fun hl => by simp [h.calls hl]) rfl rfl rfl rfl rfl rfl
  obtain ⟨-, ⟨-, -, rfl⟩ | ⟨x, rest, i, hl, -, -, -, he⟩ | ⟨-, hc, rfl⟩ | ⟨k, rest, -, -, -, rfl⟩ |
    ⟨k, rest, i, -, -, hd, he⟩⟩ := step_cases he
  · exact h
  · have hin : Inv (takeInput s) := h.congr rfl h.calls rfl rfl rfl rfl rfl rfl
    exact exec_keeps_inv hin he fun _ => h.calls hl
  · exact inv_release h hc
  · exact htake
  · exact exec_keeps_inv htake he fun ha => absurd (decode_call_agent hd) ha

/-! ### The writes of the latch file (R24) -/

/-- COMPLETE writes the command's error field alone (R196). -/
theorem completeOp_q (e : BitVec 4) (s : State) : ∃ err, (completeOp e s).q = { s.q with err := err } := by
  cases hv : s.ifV
  · exact ⟨s.q.err, by rw [completeOp_of_empty e hv]⟩
  · exact ⟨_, by rw [completeOp_of_inFlight e hv]⟩

/-- Completion without an error writes no field. -/
theorem completeOp_eNone_q (s : State) : (completeOp eNone s).q = s.q := by
  cases hv : s.ifV
  · rw [completeOp_of_empty eNone hv]
  · rw [completeOp_of_inFlight eNone hv]
    rfl

theorem hotplugOp_q (s : State) : ∃ err, (hotplugOp s).q = { s.q with err := err } := by
  unfold hotplugOp hotplugTail
  split
  · exact ⟨s.q.err, rfl⟩
  · exact completeOp_q _ (regRead .irqStatus (hwReset s))

theorem errclassOp_q (st : Word) (s : State) : ∃ err, (errclassOp st s).q = { s.q with err := err } := by
  have hlog : (logIoError st s).q = s.q := by
    unfold logIoError
    split <;> rfl
  rw [errclassOp, attachError_eq]
  exact ⟨_, by rw [hlog]⟩

/-- PUMP writes no latch register (R24). -/
theorem pumpOp_q (s : State) : (pumpOp s).q = s.q := by
  obtain ⟨-, he⟩ | ⟨-, -, he⟩ | ⟨-, -, he⟩ := pumpOp_cases s <;> rw [he]
  · rfl
  · unfold pumpBlock
    split
    · rfl
    · simp

/-- RESPCAP writes the response words alone (R181 to R184). -/
theorem respcapOp_q (st : Word) (s : State) : ∃ r0 r1 r2 r3,
    (respcapOp st s).q = { s.q with resp0 := r0, resp1 := r1, resp2 := r2, resp3 := r3 } := by
  have hcap : ∃ r0 r1 r2 r3,
      (capture s).q = { s.q with resp0 := r0, resp1 := r1, resp2 := r2, resp3 := r3 } := by
    unfold capture
    split <;> exact ⟨_, _, _, _, rfl⟩
  have hdone : (completeUnlessData (capture s)).q = (capture s).q := by
    unfold completeUnlessData
    split
    · rfl
    · exact completeOp_eNone_q _
  unfold respcapOp
  split
  · split
    · rwa [hdone]
    · exact ⟨_, _, _, _, rfl⟩
  · exact ⟨_, _, _, _, rfl⟩

/-- DATAEND writes the byte count and, on completing with the transfer's error, the command's (R192, R194). -/
theorem dataendOp_q (st : Word) (s : State) : ∃ err bytes,
    (dataendOp st s).q = { s.q with err := err, bytes := bytes } := by
  unfold dataendOp
  split
  · split
    · obtain ⟨err, he⟩ := completeOp_q s.q.derr (regWrite .stop 0#32 (recordBytes s))
      exact ⟨err, reportedBytes s.q, he⟩
    · exact ⟨_, _, rfl⟩
  · exact ⟨_, _, rfl⟩

/-- Which latch registers an instruction writes, but for ATTACH_RESET and a SUBMIT that loads them: the table
of R24. -/
theorem exec_q_cases {s t : State} {i : Instr} (h : exec i s = .next t) (hr : i ≠ .attachReset)
    (hs : i.submitted.isSome = true → s.ifV = true) :
    t.q = s.q ∨
    (i = .irq ∧ ∃ r0 r1 r2 r3 err bytes, t.q =
      { s.q with resp0 := r0, resp1 := r1, resp2 := r2, resp3 := r3, err := err, bytes := bytes }) ∨
    ((i = .hotplug ∨ (∃ st, i = .errclass st) ∨ ∃ e, i = .complete e) ∧
      ∃ err, t.q = { s.q with err := err }) ∨
    ((∃ st, i = .respcap st) ∧ ∃ r0 r1 r2 r3, t.q =
      { s.q with resp0 := r0, resp1 := r1, resp2 := r2, resp3 := r3 }) ∨
    ((∃ st, i = .dataend st) ∧ ∃ err bytes, t.q = { s.q with err := err, bytes := bytes }) := by
  cases i with
  | attachReset => exact absurd rfl hr
  | submit req | submitStop req | submitSec52 req | submitSec53 req | submitApp req =>
    obtain ⟨-, -, -, -, -, -, -, -, hq, -⟩ := submit_frame rfl h
    exact .inl (hq (hs rfl))
  | apply hz width off =>
    obtain ⟨clk, -, ⟨-, rfl⟩ | ⟨opt, -, rfl⟩⟩ := execApply_next h <;> exact .inl rfl
  | getCd | getRo | sdioEn en | hwreset => cases h; exact .inl rfl
  | sdioIrq =>
    cases h
    refine .inl ?_
    split <;> rfl
  | submitNocard req =>
    obtain ⟨-, rfl⟩ := execSubmitNocard_next h
    refine .inl ?_
    split <;> rfl
  | pump => cases h; exact .inl (pumpOp_q s)
  | irq => cases h; exact .inr (.inl ⟨rfl, (frame_batch s).q_eq⟩)
  | hotplug => cases h; exact .inr (.inr (.inl ⟨.inl rfl, hotplugOp_q s⟩))
  | errclass st =>
    cases h
    split
    · exact .inr (.inr (.inl ⟨.inr (.inl ⟨st, rfl⟩), errclassOp_q st s⟩))
    · exact .inl rfl
  | complete e => cases h; exact .inr (.inr (.inl ⟨.inr (.inr ⟨e, rfl⟩), completeOp_q e s⟩))
  | respcap st => cases h; exact .inr (.inr (.inr (.inl ⟨⟨st, rfl⟩, respcapOp_q st s⟩)))
  | dataend st => cases h; exact .inr (.inr (.inr (.inr ⟨⟨st, rfl⟩, dataendOp_q st s⟩)))

/-- Settles O57, by the row of `exec_q_cases` that the instruction has. -/
theorem latchedRequestKeepsItsFields : Obligations.LatchedRequestKeepsItsFields := by
  unfold Obligations.LatchedRequestKeepsItsFields
  intro s t i h hr hs
  rcases exec_q_cases h hr hs with hq | ⟨rfl, r0, r1, r2, r3, err, bytes, hq⟩ |
    ⟨rfl | ⟨st, rfl⟩ | ⟨e, rfl⟩, err, hq⟩ | ⟨⟨st, rfl⟩, r0, r1, r2, r3, hq⟩ | ⟨⟨st, rfl⟩, err, bytes, hq⟩ <;>
    simp [hq]

/-! ### The events of the history (R34, R35, R65) -/

section AppendedEvents

variable {P : Event → Prop}

theorem appends_emit {e : Event} (s : State) (h : P e) : Appends P s (emit e s) := .one rfl h

theorem appends_regRead {r : RegName} (s : State) (h : ∀ v, P (.regRead r v)) : Appends P s (regRead r s) :=
  .one rfl (h _)

theorem appends_regWrite {r : RegName} {v : Word} (s : State) (h : P (.regWrite r (truncToReg s.cfg r v))) :
    Appends P s (regWrite r v s) := .one rfl h

theorem appends_applyWrites (clk opt : Half) (s : State) (hclk : ∀ v, P (.regWrite .clkCtl v))
    (hopt : ∀ v, P (.regWrite .opt v)) (hdelay : P (.delay .tSettle)) :
    Appends P s (applyWrites clk opt s) :=
  ((appends_regWrite s (hclk _)).trans (appends_regWrite _ (hopt _))).trans (appends_emit _ hdelay)

theorem appends_hotplugOp (s : State) (hreset : P .hwReset) (hread : ∀ v, P (.regRead .irqStatus v))
    (hdone : ∀ snap, P (.done snap)) (hcard : P .card) : Appends P s (hotplugOp s) := by
  have h1 : Appends P s (regRead .irqStatus (hwReset s)) :=
    (Appends.one rfl hreset).trans (appends_regRead _ hread)
  refine Appends.trans ?_ (appends_emit _ hcard)
  split
  · exact h1
  · exact h1.trans (appends_completeOp _ _ hdone)

theorem appends_errclassOp (st : Word) (s : State) (hlog : ∀ bits, P (.log (.ioErrBits bits))) :
    Appends P s (errclassOp st s) := by
  rw [errclassOp, attachError_eq]
  refine Appends.congr_right (t := logIoError st s) ?_ rfl
  unfold logIoError
  split
  · exact appends_emit _ (hlog _)
  · exact .refl s

/-- The data accesses of word moves are of the transfer's own direction (R175). -/
theorem appends_moveWords (n : Nat) (a : MemAddr) (s : State)
    (hin : s.q.dir = true → ∀ a w, P (.fifoRead w) ∧ P (.memWrite a w))
    (hout : s.q.dir = false → ∀ a w, P (.memRead a w) ∧ P (.fifoWrite w)) :
    Appends P s (moveWords n a s) := by
  cases hd : s.q.dir with
  | true =>
    refine ⟨_, moveWords_history_read n a hd, fun e he => ?_⟩
    simp only [List.mem_flatMap, List.mem_cons, List.not_mem_nil, or_false] at he
    obtain ⟨k, -, rfl | rfl⟩ := he
    · exact (hin hd a _).1
    · exact (hin hd _ _).2
  | false =>
    refine ⟨_, moveWords_history_write n a hd, fun e he => ?_⟩
    simp only [List.mem_flatMap, List.mem_cons, List.not_mem_nil, or_false] at he
    obtain ⟨k, -, rfl | rfl⟩ := he
    · exact (hout hd _ _).1
    · exact (hout hd a _).2

theorem appends_pumpOp (s : State) (hread : ∀ v, P (.regRead .status2 v))
    (hin : pumpTriggered s = true → s.q.dir = true → ∀ a w, P (.fifoRead w) ∧ P (.memWrite a w))
    (hout : pumpTriggered s = true → s.q.dir = false → ∀ a w, P (.memRead a w) ∧ P (.fifoWrite w)) :
    Appends P s (pumpOp s) := by
  have h1 : Appends P s (regRead .status2 s) := appends_regRead s hread
  obtain ⟨-, he⟩ | ⟨-, -, he⟩ | ⟨ht, -, he⟩ := pumpOp_cases s <;> rw [he]
  · exact .refl s
  · exact h1
  · refine (h1.congr_right (u := advanceCursor (regRead .status2 s)) rfl).trans ?_
    unfold pumpBlock
    split
    · exact .refl _
    · exact appends_moveWords _ _ _ (hin ht) (hout ht)

theorem appends_capture (s : State)
    (hresp : ∀ r ∈ [RegName.resp0, .resp1, .resp2, .resp3], ∀ v, P (.regRead r v)) :
    Appends P s (capture s) := by
  have h0 := hresp .resp0 (by decide)
  unfold capture
  split
  · exact .refl s
  · exact appends_regRead s h0
  · exact appends_regRead s h0
  · exact (((appends_regRead s h0).trans (appends_regRead _ (hresp .resp1 (by decide)))).trans
      (appends_regRead _ (hresp .resp2 (by decide)))).trans (appends_regRead _ (hresp .resp3 (by decide)))
  · exact .of_eq rfl

theorem appends_respcapOp (st : Word) (s : State)
    (hresp : ∀ r ∈ [RegName.resp0, .resp1, .resp2, .resp3], ∀ v, P (.regRead r v))
    (hdone : ∀ snap, P (.done snap)) (hlog : P (.log .desyncResp)) : Appends P s (respcapOp st s) := by
  have hcap : Appends P s (capture s) := appends_capture s hresp
  unfold respcapOp
  split
  · split
    · unfold completeUnlessData
      split
      · exact hcap
      · exact hcap.trans (appends_completeOp _ _ hdone)
    · exact appends_emit _ hlog
  · exact .refl s

theorem appends_dataendOp (st : Word) (s : State) (hstop : P (.regWrite .stop 0#32))
    (hdone : ∀ snap, P (.done snap)) (hlog : P (.log .desyncDend)) : Appends P s (dataendOp st s) := by
  unfold dataendOp
  split
  · split
    · have hw : Appends P s (regWrite .stop 0#32 (recordBytes s)) := .one rfl (by simpa using hstop)
      exact hw.trans (appends_completeOp _ _ hdone)
    · exact appends_emit _ hlog
  · exact .refl s

theorem appends_registerProgram (s : State) (hkind : ∀ rk, P (.log (.configRk rk)))
    (hsec : s.q.hasData = true → 1 < s.q.blocks.toNat →
      P (.regWrite .stop (truncToReg s.cfg .stop (s.cfg.stop.sec.setWidth 32))))
    (hblk : s.q.hasData = true → ∀ v, P (.regWrite .blkLen v) ∧ P (.regWrite .blkCount v))
    (harm : ∀ v, P (.regWrite .arg v) ∧ P (.regWrite .cmd v)) : Appends P s (registerProgram s) := by
  rw [registerProgram_eq]
  refine ⟨_, by simp only [List.append_assoc]; rfl, fun e he => ?_⟩
  simp only [List.mem_append, List.mem_ite_nil_right, List.mem_cons, List.not_mem_nil, or_false] at he
  obtain ⟨-, rfl⟩ | ⟨⟨hd, hb⟩, rfl⟩ | ⟨hd, rfl | rfl⟩ | rfl | rfl := he
  · exact hkind _
  · exact hsec hd hb
  · exact (hblk hd _).1
  · exact (hblk hd _).2
  · exact (harm _).1
  · exact (harm _).2

end AppendedEvents

theorem takesRequest_of_submitted {i : Instr} {req : Request} (h : i.submitted = some req) :
    i.takesRequest = true := by
  cases i <;> simp [Instr.submitted, Instr.takesRequest] at h ⊢

/-- Every way through SUBMIT emits events of SUBMIT's row only (R131 to R140). -/
theorem submit_appends_legal {s t : State} {i : Instr} {req : Request} (hi : i.submitted = some req)
    (h : exec i s = .next t) : Appends (legalEvent s i) s t := by
  have hsub : i.submitted.isSome = true := by simp [hi]
  have htakes : i.takesRequest = true := takesRequest_of_submitted hi
  have hread : Appends (legalEvent s i) s (regRead .irqStatus (acquire s)) := .one rfl (.inl hsub)
  obtain ⟨-, ⟨-, rfl⟩ | ⟨-, -, rfl⟩ | ⟨-, -, ho, rfl⟩ | ⟨-, -, ho, rfl⟩⟩ := submit_cases hi h
  · exact .one rfl hsub
  · exact hread.trans (.one rfl (.inl htakes))
  · have hwrite : Appends (legalEvent s i) (regRead .irqStatus (acquire s))
        (regWrite .stop (s.cfg.stop.stp.setWidth 32) (latch req (regRead .irqStatus (acquire s)))) :=
      .one rfl ⟨.inl hsub, fun _ => .inl ⟨req, hi, ho, rfl⟩⟩
    exact (hread.trans hwrite).trans (appends_completeOp eNone _ fun _ => .inl htakes)
  · exact hread.trans (appends_registerProgram (latch req (regRead .irqStatus (acquire s))) (fun _ => hsub)
      (fun hd hb => ⟨.inl hsub, fun _ => .inr (.inl ⟨req, hi, ho, hd, hb, rfl⟩)⟩)
      (fun hd _ => ⟨⟨⟨req, hi, ho, hd⟩, nofun⟩, ⟨⟨req, hi, ho, hd⟩, nofun⟩⟩)
      (fun _ => ⟨⟨⟨req, hi, ho⟩, nofun⟩, ⟨⟨req, hi, ho⟩, nofun⟩⟩))

/-- The pump accesses data only where the instruction found a transfer in flight, and in that transfer's
direction (R65, R171): `u` is the state it runs in, after other handlers. -/
theorem pumpOp_appends_legal {s u : State} {i : Instr} (hi : i = .irq ∨ i = .pump) (hf : HandlerFrame s u) :
    Appends (legalEvent s i) u (pumpOp u) := by
  have access {d : Bool} (ht : pumpTriggered u = true) (hd : u.q.dir = d) : pumpAccess s i d := by
    obtain ⟨hv, hdata⟩ := (pumpTriggered_iff u).1 ht
    exact ⟨hi, hf.ifV_of_ifV hv, hf.hasData ▸ hdata, hf.dir ▸ hd⟩
  exact appends_pumpOp u (fun _ => hi) (fun ht hd _ _ => ⟨access ht hd, access ht hd⟩)
    (fun ht hd _ _ => ⟨access ht hd, access ht hd⟩)

theorem respcapOp_appends_legal {s : State} {i : Instr} (st : Word) (u : State)
    (hi : i = .irq ∨ ∃ st, i = .respcap st) : Appends (legalEvent s i) u (respcapOp st u) := by
  refine appends_respcapOp st u (fun r hr v => ?_) (fun _ => ?_) hi
  · simp only [List.mem_cons, List.not_mem_nil, or_false] at hr
    obtain rfl | rfl | rfl | rfl := hr <;> exact hi
  · obtain hi | hi := hi
    · exact .inr (.inl hi)
    · exact .inr (.inr (.inr (.inl hi)))

theorem dataendOp_appends_legal {s : State} {i : Instr} (st : Word) (u : State)
    (hi : i = .irq ∨ ∃ st, i = .dataend st) : Appends (legalEvent s i) u (dataendOp st u) := by
  refine appends_dataendOp st u ⟨.inr hi, fun _ => .inr (.inr ⟨hi, rfl⟩)⟩ (fun _ => ?_) hi
  obtain hi | hi := hi
  · exact .inr (.inl hi)
  · exact .inr (.inr (.inr (.inr (.inl hi))))

theorem hotplugOp_appends_legal {s : State} {i : Instr} (u : State) (hi : i = .irq ∨ i = .hotplug) :
    Appends (legalEvent s i) u (hotplugOp u) := by
  refine appends_hotplugOp u ?_ (fun _ => ?_) (fun _ => ?_) hi
  · exact hi.imp_right .inl
  · exact .inr (hi.imp_right .inl)
  · exact .inr (hi.imp_right .inl)

/-- The whole of one interrupt batch, by its four exits (R150 to R163, R232). -/
theorem irq_appends_legal {s t : State} (h : exec .irq s = .next t) : Appends (legalEvent s .irq) s t := by
  have hack : Appends (legalEvent s .irq) s (afterAck s) := by
    refine ⟨_, afterAck_history s, fun e he => ?_⟩
    simp only [List.mem_cons, List.not_mem_nil, or_false] at he
    obtain rfl | rfl := he
    · exact .inr (.inl rfl)
    · exact ⟨rfl, nofun⟩
  obtain ⟨hirq, hcases⟩ := irq_cases s
  cases hirq.symm.trans h
  refine Appends.congr_right (t := dispatchBatch (regValue .irqStatus s) (afterAck s)) ?_ rfl
  have herr : Appends (legalEvent s .irq) (afterAck s) (errclassOp (regValue .irqStatus s) (afterAck s)) :=
    appends_errclassOp _ _ fun _ => .inl rfl
  obtain ⟨-, he⟩ | ⟨-, -, he⟩ | ⟨-, -, -, he⟩ | ⟨-, -, -, he⟩ := hcases <;> rw [he]
  · exact hack.trans (hotplugOp_appends_legal _ (.inl rfl))
  · exact hack
  · exact hack.trans herr
  · have hf : HandlerFrame (acquire s) (errclassOp (regValue .irqStatus s) (afterAck s)) :=
      (frame_afterAck s).trans (frame_errclassOp _ _)
    have hpump := pumpOp_appends_legal (.inl rfl) hf
    exact (((hack.trans herr).trans hpump).trans (respcapOp_appends_legal _ _ (.inl rfl))).trans
      (dataendOp_appends_legal _ _ (.inl rfl))

/-- Settles O60, instruction by instruction along the tables of R35 and R65. -/
theorem historyGrowsByLegalEvents : Obligations.HistoryGrowsByLegalEvents := by
  unfold Obligations.HistoryGrowsByLegalEvents
  intro s t i h hr
  change Appends (legalEvent s i) s t
  cases i with
  | attachReset => exact absurd rfl hr
  | submit req | submitStop req | submitSec52 req | submitSec53 req | submitApp req =>
    exact submit_appends_legal rfl h
  | apply hz width off =>
    obtain ⟨clk, -, ⟨-, rfl⟩ | ⟨opt, -, rfl⟩⟩ := execApply_next h
    · exact .one rfl ⟨hz, off, rfl⟩
    · have happly : ∃ clock bus power, Instr.apply hz width off = .apply clock bus power := ⟨_, _, _, rfl⟩
      exact appends_applyWrites clk opt (acquire s) (fun _ => ⟨happly, nofun⟩) (fun _ => ⟨happly, nofun⟩) happly
  | getCd =>
    cases h
    exact (appends_regRead (acquire s) fun _ => .inr (.inr (.inr (.inl rfl)))).trans (.one rfl (.inl rfl))
  | getRo =>
    cases h
    exact (appends_regRead (acquire s) fun _ => .inr (.inr (.inr (.inr rfl)))).trans (.one rfl (.inr rfl))
  | sdioEn en => cases h; exact .of_eq rfl
  | irq => exact irq_appends_legal h
  | sdioIrq =>
    cases h
    split
    · exact .one rfl rfl
    · exact .of_eq rfl
  | submitNocard req =>
    obtain ⟨-, rfl⟩ := execSubmitNocard_next h
    split
    · exact .refl s
    · exact .one rfl (.inl rfl)
  | hotplug => cases h; exact hotplugOp_appends_legal s (.inr rfl)
  | errclass st =>
    cases h
    split
    · exact appends_errclassOp st s fun _ => .inr ⟨st, rfl⟩
    · exact .refl s
  | pump => cases h; exact pumpOp_appends_legal (.inr rfl) (.refl s)
  | respcap st => cases h; exact respcapOp_appends_legal st s (.inr ⟨st, rfl⟩)
  | dataend st => cases h; exact dataendOp_appends_legal st s (.inr ⟨st, rfl⟩)
  | complete e =>
    cases h
    exact appends_completeOp e s fun _ => .inr (.inr (.inr (.inr (.inr ⟨e, rfl⟩))))
  | hwreset => cases h; exact .one rfl (.inr (.inr rfl))

end Sys2Proof.Machine
end

section
/-! PROOFS. Scatter memory (R63 to R70): the byte order of a word, which instructions leave memory alone, the
accesses of one interrupt batch, and the step that runs what is presented. -/

namespace Sys2Proof.Machine

/-! ### The byte order of a word (R66, D26) -/

/-- Byte `n` of a word read is the byte of memory `n` further on: below it stand `n` whole bytes. -/
theorem Memory.extract_readWord (m : Memory) (a : MemAddr) {n : Nat} (hn : n < 4) :
    (m.readWord a).extractLsb' (8 * n) 8 = m.byteAt (a.plus n) := by
  unfold Memory.readWord
  obtain rfl | rfl | rfl | rfl : n = 0 ∨ n = 1 ∨ n = 2 ∨ n = 3 := by omega
  · exact BitVec.extractLsb'_append_eq_right
  · rw [BitVec.extractLsb'_append_eq_of_le (by decide)]
    exact BitVec.extractLsb'_append_eq_right
  · rw [BitVec.extractLsb'_append_eq_of_le (by decide), BitVec.extractLsb'_append_eq_of_le (by decide)]
    exact BitVec.extractLsb'_append_eq_right
  · rw [BitVec.extractLsb'_append_eq_of_le (by decide), BitVec.extractLsb'_append_eq_of_le (by decide)]
    exact BitVec.extractLsb'_append_eq_left

/-- Settles O41: a word stored is read back, and the read gives its bytes. -/
theorem scatterWordsAreLittleEndian : Obligations.ScatterWordsAreLittleEndian := by
  unfold Obligations.ScatterWordsAreLittleEndian
  intro m a w hm
  have hback : (m.writeWord a w).readWord a = w := Memory.readWord_writeWord hm a w
  refine ⟨fun n hn => ?_, hback, fun x => Memory.read_writeWord_other hm a w,
    fun n => Memory.extract_readWord m a, Memory.writeWord_wf hm a w⟩
  rw [← Memory.extract_readWord _ a hn, hback]

/-! ### Which instructions leave memory alone (R63, R65) -/

@[simp] theorem completeOp_mem (e : BitVec 4) (s : State) : (completeOp e s).mem = s.mem := by
  cases hv : s.ifV
  · rw [completeOp_of_empty e hv]
  · rw [completeOp_of_inFlight e hv]

@[simp] theorem hotplugOp_mem (s : State) : (hotplugOp s).mem = s.mem := by
  unfold hotplugOp hotplugTail
  split <;> simp

@[simp] theorem errclassOp_mem (st : Word) (s : State) : (errclassOp st s).mem = s.mem := by
  rw [errclassOp, attachError_eq]
  unfold logIoError
  split <;> rfl

@[simp] theorem respcapOp_mem (st : Word) (s : State) : (respcapOp st s).mem = s.mem := by
  have hcap : (capture s).mem = s.mem := by
    unfold capture
    split <;> simp [captureShort, captureLong, captureUnknown]
  unfold respcapOp
  split
  · split
    · unfold completeUnlessData
      split
      · exact hcap
      · rw [completeOp_mem, hcap]
    · rfl
  · rfl

@[simp] theorem dataendOp_mem (st : Word) (s : State) : (dataendOp st s).mem = s.mem := by
  unfold dataendOp
  split
  · split
    · exact completeOp_mem _ _
    · rfl
  · rfl

/-- What a batch leaves alone up to PUMP: the acknowledge and the error classification come before it
(R152, R159). -/
theorem frame_classified (s : State) :
    HandlerFrame (acquire s) (errclassOp (regValue .irqStatus s) (afterAck s)) :=
  (frame_afterAck s).trans (frame_errclassOp _ _)

/-- PUMP stores only for a read transfer that the instruction found in flight (R175): `u` is the state it runs
in, after other handlers. -/
theorem pumpOp_mem {s u : State} {i : Instr} (hi : i = .irq ∨ i = .pump) (hf : HandlerFrame s u) :
    (pumpOp u).mem = u.mem ∨ pumpAccess s i true := by
  obtain ⟨-, he⟩ | ⟨-, -, he⟩ | ⟨ht, -, he⟩ := pumpOp_cases u <;> rw [he]
  · exact .inl rfl
  · exact .inl rfl
  · obtain ⟨hv, hdata⟩ := (pumpTriggered_iff u).1 ht
    cases hd : u.q.dir with
    | true => exact .inr ⟨hi, hf.ifV_of_ifV hv, hf.hasData ▸ hdata, hf.dir ▸ hd⟩
    | false =>
      left
      unfold pumpBlock
      split
      · rfl
      · exact moveWords_mem_write (s := advanceCursor (regRead .status2 u)) _ _ hd

/-- One interrupt batch stores through PUMP alone, by its four exits (R232). -/
theorem irq_mem {s t : State} (h : exec .irq s = .next t) : t.mem = s.mem ∨ pumpAccess s .irq true := by
  obtain ⟨hirq, hcases⟩ := irq_cases s
  cases hirq.symm.trans h
  rw [release_mem]
  obtain ⟨-, he⟩ | ⟨-, -, he⟩ | ⟨-, -, -, he⟩ | ⟨-, -, -, he⟩ := hcases <;> rw [he]
  · simp
  · simp
  · simp
  · refine (pumpOp_mem (.inl rfl) (frame_classified s)).imp_left fun hp => ?_
    simp [handleInOrder, hp]

/-- Every instruction leaves memory as it is, but for the pump's on a read transfer in flight (R63, R65). -/
theorem exec_mem {s t : State} {i : Instr} (h : exec i s = .next t) :
    t.mem = s.mem ∨ pumpAccess s i true := by
  cases i with
  | irq => exact irq_mem h
  | pump => cases h; exact pumpOp_mem (.inr rfl) (.refl s)
  | submit req | submitStop req | submitSec52 req | submitSec53 req | submitApp req =>
    obtain ⟨-, -, -, -, -, -, hm, -⟩ := submit_frame rfl h
    exact .inl hm
  | apply hz width off =>
    obtain ⟨clk, -, ⟨-, rfl⟩ | ⟨opt, -, rfl⟩⟩ := execApply_next h <;> exact .inl rfl
  | submitNocard req =>
    obtain ⟨-, rfl⟩ := execSubmitNocard_next h
    left
    split <;> rfl
  | sdioIrq =>
    cases h
    left
    split <;> rfl
  | errclass st =>
    cases h
    left
    split <;> simp
  | attachReset | getCd | getRo | sdioEn en | hwreset => cases h; exact .inl rfl
  | hotplug => cases h; exact .inl (hotplugOp_mem s)
  | respcap st => cases h; exact .inl (respcapOp_mem st s)
  | dataend st => cases h; exact .inl (dataendOp_mem st s)
  | complete e => cases h; exact .inl (completeOp_mem e s)

/-- Settles O59: where the pump may store, no disjunct of the premise holds. -/
theorem onlyThePumpStoresToMemory : Obligations.OnlyThePumpStoresToMemory := by
  unfold Obligations.OnlyThePumpStoresToMemory
  intro s t i h hno a
  obtain hm | ⟨hi, hv, hdata, hdir⟩ := exec_mem h
  · rw [hm]
  · simp [hi, hv, hdata, hdir, ← not_or] at hno

/-! ### The accesses of one interrupt batch (R63, R68, R273) -/

/-- An event that, where it accesses scatter memory, does so aligned and inside a segment of the request in
flight. -/
def segmentAccess (s : State) (e : Event) : Prop :=
  ∀ a, e.memAddr = some a → s.ifV = true ∧ ∃ g ∈ s.q.segs, insideSegment g a

theorem segmentAccess_of_inside {s : State} {g : Segment} {a : MemAddr} {e : Event} (hv : s.ifV = true)
    (hg : g ∈ s.q.segs) (hin : insideSegment g a) (he : e.memAddr = some a) : segmentAccess s e := by
  intro b hb
  cases he.symm.trans hb
  exact ⟨hv, g, hg, hin⟩

/-- A handler changes no segment and fills no slot, so what is inside a segment after it was inside one before. -/
theorem segmentAccess_of_frame {s u : State} (hf : HandlerFrame s u) {e : Event} (h : segmentAccess u e) :
    segmentAccess s e := by
  obtain ⟨_, _, _, _, _, _, hq⟩ := hf.q_eq
  intro a ha
  obtain ⟨hv, g, hg, hin⟩ := h a ha
  exact ⟨hf.ifV_of_ifV hv, g, by simpa [hq] using hg, hin⟩

/-- The scatter-memory accesses of word moves are at the words from the first address on (R175). -/
theorem appends_moveWords_at {P : Event → Prop} (n : Nat) (a : MemAddr) (s : State)
    (hfifo : ∀ w, P (.fifoRead w) ∧ P (.fifoWrite w))
    (hmem : ∀ k < n, ∀ w, P (.memRead (a.plus (4 * k)) w) ∧ P (.memWrite (a.plus (4 * k)) w)) :
    Appends P s (moveWords n a s) := by
  cases hd : s.q.dir with
  | true =>
    refine ⟨_, moveWords_history_read n a hd, fun e he => ?_⟩
    simp only [List.mem_flatMap, List.mem_range, List.mem_cons, List.not_mem_nil, or_false] at he
    obtain ⟨k, hk, rfl | rfl⟩ := he
    · exact (hfifo _).1
    · exact (hmem k hk _).2
  | false =>
    refine ⟨_, moveWords_history_write n a hd, fun e he => ?_⟩
    simp only [List.mem_flatMap, List.mem_range, List.mem_cons, List.not_mem_nil, or_false] at he
    obtain ⟨k, hk, rfl | rfl⟩ := he
    · exact (hmem k hk _).1
    · exact (hfifo _).2

/-- Each word of a pump cycle lies inside the cursor's segment: offset and length are multiples of 4 and the
segment does not wrap (R28.2, R68, R208). -/
theorem insideSegment_pumpAddr {s : State} {g : Segment} (hc : CursorOk s.q.segs s.curI s.curO)
    (hw : transferDefect s.cfg s.q = none) (hg : s.q.segs[s.curI]? = some g) {k : Nat}
    (hk : k < pumpLen s g / 4) : insideSegment g ((pumpAddr s g).plus (4 * k)) := by
  obtain ⟨-, -, -, halign, -, hrange, -⟩ := (transferDefect_eq_none_iff _ _).1 hw
  have hmem : g ∈ s.q.segs := List.mem_of_getElem? hg
  have hal : g.off.toNat % 4 = 0 ∧ g.len.toNat % 4 = 0 := by simpa [Segment.aligned] using halign g hmem
  have hr : g.off.toNat + g.len.toNat < 2 ^ 32 := by simpa [Segment.inRange] using hrange g hmem
  have hmod := hc.aligned
  have hfit : s.curO.toNat + (4 * k + 4) ≤ g.len.toNat := by
    unfold pumpLen at hk
    omega
  have hoff : ((pumpAddr s g).plus (4 * k)).off.toNat = g.off.toNat + s.curO.toNat + 4 * k := by
    simp only [pumpAddr, MemAddr.plus, BitVec.toNat_add, BitVec.toNat_ofNat]
    omega
  refine ⟨rfl, ?_⟩
  rw [hoff]
  omega

/-- Under the invariant PUMP accesses memory inside a segment of the request in flight. -/
theorem pumpOp_appends_segmentAccess {s : State} (h : Inv s) : Appends (segmentAccess s) s (pumpOp s) := by
  have hread : Appends (segmentAccess s) s (regRead .status2 s) := appends_regRead s fun _ => nofun
  obtain ⟨-, he⟩ | ⟨-, -, he⟩ | ⟨ht, -, he⟩ := pumpOp_cases s <;> rw [he]
  · exact .refl s
  · exact hread
  · have hc : s.curV = true := h.cursorV.trans ht
    have hinv : Inv (advanceCursor (regRead .status2 s)) := inv_advanceCursor (inv_regRead _ h) hc
    refine (hread.congr_right (u := advanceCursor (regRead .status2 s)) rfl).trans ?_
    unfold pumpBlock
    split
    · exact .refl _
    · rename_i g hg
      have hv : s.ifV = true := ((pumpTriggered_iff s).1 ht).1
      have hmem : g ∈ s.q.segs := List.mem_of_getElem? hg
      refine appends_moveWords_at _ _ _ (fun _ => ⟨nofun, nofun⟩) fun k hk _ => ?_
      have hin := insideSegment_pumpAddr (hinv.cursor hc) (hinv.transfer hc) hg hk
      exact ⟨segmentAccess_of_inside hv hmem hin rfl, segmentAccess_of_inside hv hmem hin rfl⟩

/-- Settles O43, by the four exits of a batch: only the full path runs PUMP, from a state that meets the
invariant again. -/
theorem batchAccessesStayInsideSegments : Obligations.BatchAccessesStayInsideSegments := by
  unfold Obligations.BatchAccessesStayInsideSegments
  intro s t hinv h
  change Appends (segmentAccess s) s t
  have hack : Appends (segmentAccess s) s (afterAck s) :=
    (appends_regRead (acquire s) fun _ => nofun).trans (appends_regWrite _ nofun)
  have herr : Appends (segmentAccess s) (afterAck s) (errclassOp (regValue .irqStatus s) (afterAck s)) :=
    appends_errclassOp _ _ fun _ => nofun
  obtain ⟨hirq, hcases⟩ := irq_cases s
  cases hirq.symm.trans h
  refine Appends.congr_right (t := dispatchBatch (regValue .irqStatus s) (afterAck s)) ?_ rfl
  obtain ⟨-, he⟩ | ⟨-, -, he⟩ | ⟨-, -, -, he⟩ | ⟨-, -, -, he⟩ := hcases <;> rw [he]
  · exact hack.trans (appends_hotplugOp _ nofun (fun _ => nofun) (fun _ => nofun) nofun)
  · exact hack
  · exact hack.trans herr
  · have hu : Inv (errclassOp (regValue .irqStatus s) (afterAck s)) :=
      inv_errclassOp _ (inv_regWrite _ _ (inv_regRead _ (inv_acquire hinv)))
    have hpump := (pumpOp_appends_segmentAccess hu).mono fun _ => segmentAccess_of_frame (frame_classified s)
    exact (((hack.trans herr).trans hpump).trans
      (appends_respcapOp _ _ (fun _ _ _ => nofun) (fun _ => nofun) nofun)).trans
      (appends_dataendOp _ _ nofun (fun _ => nofun) nofun)

/-! ### The step (R70, R90, R92, R251) -/

/-- With no fault and the lock free a step takes the transaction first at the port (R70, R90). -/
theorem fetch_port {s : State} {x : Transaction} {rest : List Transaction} (hf : s.fault = none)
    (hl : s.lock = .free) (hi : s.inputs = x :: rest) :
    fetch s = fetchSelection (.port x) { s with inputs := rest, fresh := false } s := by
  simp [fetch, hf, hl, hi, takeInput]

/-- With no fault and the lock held a step takes the next call of the operation in progress (R92). -/
theorem fetch_call {s : State} {k : Call} {rest : List Call} (hf : s.fault = none)
    (hl : s.lock = .held) (hc : s.calls = k :: rest) :
    fetch s = fetchSelection (.call k) { s with calls := rest, fresh := false } s := by
  simp [fetch, hf, hl, hc, takeCall]

/-- An instruction selected runs, ATTACH_RESET only as the first step (R251). -/
theorem fetchSelection_of_ok {sel : Selection} {taken s : State} {i : Instr} (hd : decode s.cfg sel = .ok i)
    (hr : i = .attachReset → s.fresh = true) : fetchSelection sel taken s = .run i taken := by
  have ha : admitted i s = true := by
    by_cases h : i = .attachReset
    · simp [admitted, hr h]
    · simp [admitted, h]
  simp [fetchSelection, hd, ha]

/-- Settles O5: the fetch takes the selection, and a call is never ATTACH_RESET. -/
theorem stepRunsThePresentedInstruction : Obligations.StepRunsThePresentedInstruction := by
  unfold Obligations.StepRunsThePresentedInstruction
  intro s hf
  refine ⟨fun x rest i hl hi hd hr => ?_, fun k rest hl hc => ⟨fun i hd => ?_, fun hd => ?_⟩⟩
  · rw [step, fetch_port hf hl hi, fetchSelection_of_ok hd hr]
  · have hr : i ≠ .attachReset := by
      rintro rfl
      cases decode_call_agent hd
    rw [step, fetch_call hf hl hc, fetchSelection_of_ok hd fun e => absurd e hr]
  · simp [step, fetch_call hf hl hc, fetchSelection, hd]

end Sys2Proof.Machine
end

section
/-! PROOFS. The encoding tables: the decoder undoes the encoder (R91, R92, R100), which row a SUBMIT is (R93, R100),
the words of the opcode table, what the port refuses (R113, R251), and the no-card path by itself (R132). -/

namespace Sys2Proof

/-! ### What a transaction decodes to (R91, R100) -/

/-- The select codes of a legal configuration each name their own operation (R91, R118): the decoder tries them
in the order of R91, and each differs from those before it. -/
theorem decodePort_codes {c : Cfg} (h : c.sel.codes.Nodup) (ops : Operands) :
    decodePort c ⟨c.sel.attachReset, ops⟩ = .ok .attachReset ∧
    decodePort c ⟨c.sel.submit, ops⟩ = .ok (decodeSubmit c ops.req) ∧
    decodePort c ⟨c.sel.apply, ops⟩ = .ok (.apply ops.clockHz ops.width ops.powerOff) ∧
    decodePort c ⟨c.sel.getCd, ops⟩ = .ok .getCd ∧
    decodePort c ⟨c.sel.getRo, ops⟩ = .ok .getRo ∧
    decodePort c ⟨c.sel.sdioEn, ops⟩ = .ok (.sdioEn ops.en) ∧
    decodePort c ⟨c.sel.irq, ops⟩ = .ok .irq ∧
    decodePort c ⟨c.sel.sdioIrq, ops⟩ = .ok .sdioIrq := by
  have hrev : [c.sel.sdioIrq, c.sel.irq, c.sel.sdioEn, c.sel.getRo, c.sel.getCd, c.sel.apply, c.sel.submit,
      c.sel.attachReset].Nodup := List.nodup_reverse.2 h
  simp only [List.nodup_cons, List.mem_cons, List.not_mem_nil, or_false, not_or] at hrev
  simp [decodePort, hrev]

/-- A select code of no operation is rejected by name (R113). -/
theorem decodePort_reserved {c : Cfg} {t : Transaction} (h : t.select ∉ c.sel.codes) :
    decodePort c t = .reject (.reservedSelect t.select) := by
  simp only [SelectCfg.codes, List.mem_cons, List.not_mem_nil, or_false, not_or] at h
  simp [decodePort, h]

/-- The select code of ATTACH_RESET comes first, whatever the other codes are (R91). -/
theorem decodePort_attachReset {c : Cfg} {t : Transaction} (h : t.select = c.sel.attachReset) :
    decodePort c t = .ok .attachReset := if_pos h

/-- Everything the SUBMIT rows can be: exact keys first, then every other opcode (R100). -/
theorem decodeSubmit_cases (c : Cfg) (req : Request) :
    (req.opc = c.opc.stop ∧ decodeSubmit c req = .submitStop req) ∨
    (req.opc ≠ c.opc.stop ∧
      ((req.opc = c.opc.sdioDirect ∧ decodeSubmit c req = .submitSec52 req) ∨
       (req.opc = c.opc.sdioExt ∧ decodeSubmit c req = .submitSec53 req) ∨
       (req.opc = c.opc.app ∧ decodeSubmit c req = .submitApp req) ∨
       (req.opc ≠ c.opc.sdioDirect ∧ req.opc ≠ c.opc.sdioExt ∧ req.opc ≠ c.opc.app ∧
         decodeSubmit c req = .submit req))) := by
  unfold decodeSubmit
  split_ifs with hstop h52 h53 happ
  · exact .inl ⟨hstop, rfl⟩
  · exact .inr ⟨hstop, .inl ⟨h52, rfl⟩⟩
  · exact .inr ⟨hstop, .inr (.inl ⟨h53, rfl⟩)⟩
  · exact .inr ⟨hstop, .inr (.inr (.inl ⟨happ, rfl⟩))⟩
  · exact .inr ⟨hstop, .inr (.inr (.inr ⟨h52, h53, happ, rfl⟩))⟩

/-- The row a SUBMIT transaction decodes to carries the descriptor on the ports (R93). -/
@[simp] theorem submitted_decodeSubmit (c : Cfg) (req : Request) :
    (decodeSubmit c req).submitted = some req := by
  unfold decodeSubmit
  split_ifs <;> rfl

/-- The five rows that carry a descriptor (R100). -/
theorem submitted_cases {i : Instr} {req : Request} (h : i.submitted = some req) :
    i = .submit req ∨ i = .submitStop req ∨ i = .submitSec52 req ∨ i = .submitSec53 req ∨ i = .submitApp req := by
  cases i <;> simp only [Instr.submitted, Option.some.injEq, reduceCtorEq] at h <;> simp [h]

/-- A well-formed SUBMIT row is the one its opcode selects: the special opcodes are pairwise distinct (R100,
D5). -/
theorem decodeSubmit_of_wellFormed {c : Cfg} (hc : c.Valid) {i : Instr} {req : Request}
    (hs : i.submitted = some req) (hi : i.wellFormed c = true) : decodeSubmit c req = i := by
  have hne := hc.opcodes
  have hrev : [c.opc.sdioExt, c.opc.sdioDirect, c.opc.app, c.opc.stop].Nodup := List.nodup_reverse.2 hne
  simp only [List.nodup_cons, List.mem_cons, List.not_mem_nil, or_false, not_or] at hne hrev
  obtain rfl | rfl | rfl | rfl | rfl := submitted_cases hs <;>
    simp only [Instr.wellFormed, Bool.and_eq_true, beq_iff_eq] at hi <;> obtain ⟨-, ho⟩ := hi
  · simp only [Cfg.specialOpcodes, List.contains_eq_mem, List.mem_cons, List.not_mem_nil, or_false, not_or,
      Bool.not_eq_true', decide_eq_false_iff_not] at ho
    simp [decodeSubmit, ho]
  all_goals simp [decodeSubmit, ho, hne, hrev]

/-- The five SUBMIT rows have one encoding, which decodes to the row of its opcode (R93, R100). -/
theorem decode_encode_submitted {c : Cfg} (hc : c.Valid) {i : Instr} {req : Request}
    (hs : i.submitted = some req) (hi : i.wellFormed c = true) : decode c (encode c i) = .ok i := by
  have henc : encode c i = encodeSubmit c req := by
    obtain rfl | rfl | rfl | rfl | rfl := submitted_cases hs <;> rfl
  obtain ⟨-, hsubmit, -⟩ := decodePort_codes hc.selects { Operands.zero with req := req }
  rw [henc, ← decodeSubmit_of_wellFormed hc hs hi]
  exact hsubmit

/-- Settles O1: a transaction is led back by its select code and, for a SUBMIT row, by its opcode; a sub-handler
by the selection pattern its well-formedness asks for. -/
theorem decodeOfEncodeIsTheInstruction : Obligations.DecodeOfEncodeIsTheInstruction := by
  unfold Obligations.DecodeOfEncodeIsTheInstruction
  intro c hc i hi
  obtain ⟨hattach, -, -, hcd, hro, -, hirq, hsdioIrq⟩ := decodePort_codes hc.selects Operands.zero
  cases i with
  | attachReset => exact hattach
  | submit req | submitStop req | submitSec52 req | submitSec53 req | submitApp req =>
    exact decode_encode_submitted hc rfl hi
  | apply hz width off =>
    obtain ⟨-, -, happly, -⟩ := decodePort_codes hc.selects
      { Operands.zero with clockHz := hz, width := width, powerOff := off }
    exact happly
  | getCd => exact hcd
  | getRo => exact hro
  | sdioEn en =>
    obtain ⟨-, -, -, -, -, hen, -⟩ := decodePort_codes hc.selects { Operands.zero with en := en }
    exact hen
  | irq => exact hirq
  | sdioIrq => exact hsdioIrq
  | submitNocard req => simp [encode, decode, decodeCall, stBit]
  | hotplug =>
    have hev : hotplugEvent c (bitMask c.st.remove) = true := (hotplugEvent_iff ..).2 (.inr (by simp))
    simp [encode, decode, decodeCall, decodeStage, hev]
  | errclass st =>
    have hev : hotplugEvent c st = false := by simpa [Instr.wellFormed] using hi
    simp [encode, decode, decodeCall, decodeStage, hev]
  | pump => rfl
  | respcap st | dataend st =>
    rw [Instr.wellFormed] at hi
    simp [encode, decode, decodeCall, decodeStage, hi]
  | complete e =>
    rw [Instr.wellFormed] at hi
    simp only [encode, decode, decodeCall, hi, if_true]
  | hwreset => rfl

/-! ### Which row a transaction is (R93, R100) -/

/-- A port transaction that is a SUBMIT row has SUBMIT's select code, and the row is that of the descriptor on
the ports. -/
theorem decode_port_submitted {c : Cfg} {t : Transaction} {i : Instr} {req : Request}
    (hd : decode c (.port t) = .ok i) (hs : i.submitted = some req) :
    t.select = c.sel.submit ∧ req = t.ops.req ∧ i = decodeSubmit c req := by
  simp only [decode, decodePort] at hd
  split_ifs at hd with hattach hsel
  · cases hd
    cases hs
  · cases hd
    obtain rfl : t.ops.req = req := by simpa using hs
    exact ⟨hsel, rfl, rfl⟩
  all_goals (cases hd; cases hs)

/-- Settles O2: the row is `decodeSubmit`'s, one of its five cases. -/
theorem submitRowIsSelectedByOpcode : Obligations.SubmitRowIsSelectedByOpcode := by
  unfold Obligations.SubmitRowIsSelectedByOpcode
  intro c t i req hd hs
  obtain ⟨hsel, hreq, rfl⟩ := decode_port_submitted hd hs
  refine ⟨hsel, hreq, ?_⟩
  obtain ⟨ho, hrow⟩ | ⟨hstop, ⟨ho, hrow⟩ | ⟨ho, hrow⟩ | ⟨ho, hrow⟩ | ⟨h52, h53, happ, hrow⟩⟩ :=
    decodeSubmit_cases c req
  · simp [hrow, ho]
  · simp [hrow, ← ho, hstop]
  · simp [hrow, ← ho, hstop]
  · simp [hrow, ← ho, hstop]
  · simp [hrow, hstop, h52, h53, happ]

/-- Settles O3: closed words under `CFG_REF` (D1, log 16), one evaluation each. -/
theorem tableWordsDecodeToTheirRows : Obligations.TableWordsDecodeToTheirRows := by
  unfold Obligations.TableWordsDecodeToTheirRows
  decide

namespace Machine

/-! ### What the port refuses (R113, R251) -/

/-- Settles O7: the decoder rejects a reserved select, and a decoded ATTACH_RESET is admitted in a fresh state
only. -/
theorem portRefusesReservedSelectsAndLateResets : Obligations.PortRefusesReservedSelectsAndLateResets := by
  unfold Obligations.PortRefusesReservedSelectsAndLateResets
  intro s t rest hf hl hi
  rw [step, fetch_port hf hl hi]
  refine ⟨fun hsel => ?_, fun hsel hfresh => ?_⟩
  · simp [fetchSelection, decode, decodePort_reserved hsel, refusalOf]
  · simp [fetchSelection, decode, decodePort_attachReset hsel, admitted, hfresh]

/-! ### The no-card path by itself (R132) -/

/-- Settles O18: a well-formed descriptor is notified about with the slot empty, and nothing is done with a
request in flight (log 15). -/
theorem noCardHandlerOnlyNotifies : Obligations.NoCardHandlerOnlyNotifies := by
  unfold Obligations.NoCardHandlerOnlyNotifies
  intro s req hd
  have hexec : exec (.submitNocard req) s = .next (if s.ifV then s else noCardOp req s) := by
    simp [exec, execSubmitNocard, hd]
  refine ⟨fun hv => ?_, fun hv => ?_⟩
  · simp [hexec, hv, noCardOp, emit]
  · simp [hexec, hv]

end Machine

end Sys2Proof
end

section
/-! PROOFS. The composed words and masks: the fields of the command word (R98, R99), the groups of status bits and
the acknowledge set (R102 to R104, R152), and the clock requests APPLY refuses (R111, U8). -/

namespace Sys2Proof

/-! ### Groups of status bits (R101 to R104) -/

/-- The five groups of status bits by their positions: hotplug, response-ready, data-ready, data-end, error
(R102). -/
def StCfg.groups (t : StCfg) : List (List (Fin 32)) :=
  [[t.insert, t.remove, t.present], [t.respEnd], [t.rxRdy, t.txRq], [t.dataEnd],
   [t.badCmd, t.crcFail, t.stopBit, t.dataTimeout, t.rxOverflow, t.txUnderrun, t.cmdTimeout, t.illAccess]]

/-- The mask of a list of bit positions. -/
def maskOf (l : List (Fin 32)) : Word := l.foldr (fun i m => bitMask i ||| m) 0#32

@[simp] theorem stBit_maskOf (l : List (Fin 32)) (j : Fin 32) : stBit (maskOf l) j = true ↔ j ∈ l := by
  induction l with
  | nil => simp [maskOf, stBit]
  | cons i l ih => simpa [maskOf] using or_congr Iff.rfl ih

/-- Masks of disjoint lists of positions share no bit. -/
theorem maskOf_and_eq_zero {l m : List (Fin 32)} (h : l.Disjoint m) : maskOf l &&& maskOf m = 0#32 :=
  and_eq_zero_of_bits fun j hl => Bool.eq_false_iff.2 fun hm =>
    h ((stBit_maskOf l j).1 hl) ((stBit_maskOf m j).1 hm)

/-- The groups list each status bit but the write-protect level once. -/
theorem wp_cons_groups_perm (t : StCfg) : (t.wp :: t.groups.flatten).Perm t.bits := by
  rw [List.perm_iff_count]
  intro a
  simp only [StCfg.groups, StCfg.bits, List.flatten_cons, List.flatten_nil, List.cons_append, List.nil_append,
    List.append_nil, List.count_cons]
  omega

/-- Settles O36: the groups list distinct bits, so their masks are disjoint. -/
theorem statusGroupsShareNoBit : Obligations.StatusGroupsShareNoBit := by
  unfold Obligations.StatusGroupsShareNoBit
  intro c hc
  have hnodup : c.st.groups.flatten.Nodup :=
    (List.nodup_cons.1 ((wp_cons_groups_perm c.st).nodup_iff.2 hc.st)).2
  have hmasks : (c.st.groups.map maskOf).Pairwise fun a b => a &&& b = 0#32 :=
    List.pairwise_map.2 ((List.nodup_flatten.1 hnodup).2.imp maskOf_and_eq_zero)
  simpa [StCfg.groups, maskOf, Cfg.dataRdy, Cfg.errGroup, BitVec.or_assoc] using hmasks

/-! ### The acknowledge set (R104, R152) -/

/-- The event bits of the status word, in the order of R101: every bit but the two levels (R104). -/
def StCfg.eventBits (t : StCfg) : List (Fin 32) :=
  [t.respEnd, t.dataEnd, t.remove, t.insert, t.badCmd, t.crcFail, t.stopBit, t.dataTimeout, t.rxOverflow,
   t.txUnderrun, t.cmdTimeout, t.rxRdy, t.txRq, t.illAccess]

/-- The two levels and the event bits list each status bit once (R101). -/
theorem levels_cons_eventBits_perm (t : StCfg) : (t.present :: t.wp :: t.eventBits).Perm t.bits := by
  rw [List.perm_iff_count]
  intro a
  simp only [StCfg.eventBits, StCfg.bits, List.count_cons]
  omega

/-- `IRQ_KNOWN` is the mask of the event bits (R104). -/
theorem stBit_irqKnown_iff (c : Cfg) (j : Fin 32) : stBit c.irqKnown j = true ↔ j ∈ c.st.eventBits := by
  rw [stBit_irqKnown]
  simp only [StCfg.eventBits, List.mem_cons, List.not_mem_nil, or_false]
  tauto

/-- The acknowledge set by its bits: recognised, and in snapshot mode seen (R152, D13). -/
theorem stBit_ackSet (c : Cfg) (st : Word) (j : Fin 32) : stBit (ackSet c st) j = true ↔
    j ∈ c.st.eventBits ∧ (c.ackMode = .snapshot → stBit st j = true) := by
  rw [← stBit_irqKnown_iff]
  unfold ackSet
  cases c.ackMode <;> simp [and_comm]

/-- Settles O35: a bit of the acknowledge set is an event bit, and the level bits are none (D8). -/
theorem acknowledgeNamesOnlyEventBits : Obligations.AcknowledgeNamesOnlyEventBits := by
  unfold Obligations.AcknowledgeNamesOnlyEventBits
  intro c st hc
  have hnodup : (c.st.present :: c.st.wp :: c.st.eventBits).Nodup :=
    (levels_cons_eventBits_perm c.st).nodup_iff.2 hc.st
  obtain ⟨hpresent, hwp⟩ := List.nodup_cons.1 hnodup
  have hevent {j : Fin 32} (hj : j ∉ c.st.eventBits) : stBit (ackSet c st) j = false :=
    Bool.eq_false_iff.2 fun h => hj ((stBit_ackSet c st j).1 h).1
  refine ⟨fun n hn hbit => ?_, fun hm n hbit => ?_, ?_, ?_⟩
  · exact List.mem_map_of_mem (f := Fin.val) ((stBit_ackSet c st ⟨n, hn⟩).1 hbit).1
  · exact ((stBit_ackSet c st ⟨n, BitVec.lt_of_getLsbD hbit⟩).1 hbit).2 hm
  · exact hevent fun h => hpresent (List.mem_cons_of_mem _ h)
  · exact hevent (List.nodup_cons.1 hwp).1

/-! ### Fields of a composed word (R98, R99) -/

/-- The OR of a list of words: how a word is composed of its values. -/
def orAll (l : List Half) : Half := l.foldr (· ||| ·) 0#16

@[simp] theorem orAll_cons (v : Half) (l : List Half) : orAll (v :: l) = v ||| orAll l := rfl

/-- Each word lies in the OR of the list. -/
theorem and_orAll_of_mem {v : Half} {l : List Half} (h : v ∈ l) : v &&& orAll l = v := by
  induction l with
  | nil => cases h
  | cons w l ih =>
    rcases List.mem_cons.1 h with rfl | h
    · ext i hi
      simp +contextual
    · rw [orAll_cons, BitVec.and_or_distrib_left, ih h]
      ext i hi
      simp +contextual

/-- Words that each share no bit with `f` share none together. -/
theorem orAll_and_eq_zero {l : List Half} {f : Half} (h : ∀ v ∈ l, v &&& f = 0#16) : orAll l &&& f = 0#16 := by
  induction l with
  | nil => exact BitVec.zero_and
  | cons v l ih =>
    obtain ⟨hv, hl⟩ := List.forall_mem_cons.1 h
    rw [orAll_cons, BitVec.and_or_distrib_right, hv, ih hl, BitVec.or_zero]

/-- A value inside a field shares no bit with what shares none with the field. -/
theorem value_and_eq_zero {v f g : Half} (hin : v &&& f = v) (hdis : f &&& g = 0#16) : v &&& g = 0#16 := by
  rw [← hin, BitVec.and_assoc, hdis, BitVec.and_zero]

/-- A word composed of values inside pairwise disjoint fields gives each value back through its field's mask
(`v &&& f = v` says that `v` lies inside `f`). -/
theorem orAll_and_field {l : List (Half × Half)} (hin : ∀ p ∈ l, p.1 &&& p.2 = p.1)
    (hdis : l.Pairwise fun p q => p.2 &&& q.2 = 0#16) {v f : Half} (hp : (v, f) ∈ l) :
    orAll (l.map Prod.fst) &&& f = v := by
  induction l with
  | nil => cases hp
  | cons p l ih =>
    obtain ⟨hv, hl⟩ := List.forall_mem_cons.1 hin
    obtain ⟨hhead, htail⟩ := List.pairwise_cons.1 hdis
    rw [List.map_cons, orAll_cons, BitVec.and_or_distrib_right]
    rcases List.mem_cons.1 hp with rfl | hp
    · have hrest : orAll (l.map Prod.fst) &&& f = 0#16 := orAll_and_eq_zero fun w hw => by
        obtain ⟨q, hq, rfl⟩ := List.mem_map.1 hw
        exact value_and_eq_zero (hl q hq) ((BitVec.and_comm ..).trans (hhead q hq))
      rw [hv, hrest, BitVec.or_zero]
    · rw [value_and_eq_zero hv (hhead _ hp), ih hl htail hp, BitVec.zero_or]

/-- A word composed of values inside fields has no bit outside the fields. -/
theorem orAll_and_not_fields {l : List (Half × Half)} (hin : ∀ p ∈ l, p.1 &&& p.2 = p.1) :
    orAll (l.map Prod.fst) &&& ~~~ orAll (l.map Prod.snd) = 0#16 := by
  refine orAll_and_eq_zero fun v hv => ?_
  obtain ⟨p, hp, rfl⟩ := List.mem_map.1 hv
  have hfield : p.2 &&& ~~~ orAll (l.map Prod.snd) = 0#16 := by
    rw [← and_orAll_of_mem (List.mem_map_of_mem (f := Prod.snd) hp), BitVec.and_assoc]
    simp
  exact value_and_eq_zero (hin p hp) hfield

/-- The values of the command word, each with the field it stands in, in the order of R98. -/
def commandFields (c : Cfg) (r : Request) : List (Half × Half) :=
  [(r.opc, c.cw.index),
   (if r.opc = c.opc.app then c.cw.app else 0#16, c.cw.app),
   (respBits c r.rk, c.cw.resp),
   (if r.hasData = true then c.cw.data else 0#16, c.cw.data),
   (if r.hasData = true ∧ r.dir = true then c.cw.read else 0#16, c.cw.read),
   (if r.hasData = true ∧ 1 < r.blocks.toNat then c.cw.multi else 0#16, c.cw.multi),
   (if r.opc = c.opc.sdioDirect ∨ r.opc = c.opc.sdioExt then c.cw.security else 0#16, c.cw.security)]

/-- The command word is the OR of its values (R99). -/
theorem commandWord_eq_orAll (c : Cfg) (r : Request) :
    commandWord c r = orAll ((commandFields c r).map Prod.fst) := by
  simp only [commandWord, commandFields, orAll, List.map_cons, List.map_nil, List.foldr_cons, List.foldr_nil,
    BitVec.or_zero]
  ac_rfl

/-- The field of the `n` lowest bits holds every value below `2 ^ n` (R99). -/
theorem and_lowMask {v : Half} {n : Nat} (h : v.toNat < 2 ^ n) : v &&& lowMask n = v := by
  refine BitVec.eq_of_getLsbD_eq fun i hi => ?_
  simp only [lowMask, BitVec.getLsbD_and, BitVec.getLsbD_ofNat, Nat.testBit_two_pow_sub_one]
  rcases Nat.lt_or_ge i n with hlt | hge
  · simp [hlt, hi]
  · have hbit : v.getLsbD i = false := Nat.testBit_lt_two_pow (h.trans_le (Nat.pow_le_pow_right (by omega) hge))
    simp [hbit]

/-- The response bits stand in `CW_RESP` (R135); an unrecognised kind has none (D19). -/
theorem respBits_and_resp (c : Cfg) (rk : BitVec 3) : respBits c rk &&& c.cw.resp = respBits c rk := by
  have hresp : c.cw.resp = orAll [c.cw.respNone, c.cw.respR1, c.cw.respR1b, c.cw.respR2] := by
    simp [CwCfg.resp, orAll, BitVec.or_assoc]
  rw [hresp]
  unfold respBits
  cases respKind c rk with
  | unrecognised => exact BitVec.zero_and
  | none | r32 | r136 | r32b => exact and_orAll_of_mem (by simp)

/-- Each value of the command word lies in its field (R98, R99, R118). -/
theorem commandFields_inside {c : Cfg} {r : Request} (hc : c.Valid) (ho : r.opc.toNat < 2 ^ c.width.opc) :
    ∀ p ∈ commandFields c r, p.1 &&& p.2 = p.1 := by
  obtain ⟨-, hwidth, -, -⟩ := hc.cw
  have hopc : r.opc &&& c.cw.index = r.opc :=
    and_lowMask (ho.trans_le (Nat.pow_le_pow_right (by omega) hwidth))
  have hflag (b : Prop) [Decidable b] (f : Half) :
      (if b then f else 0#16) &&& f = if b then f else 0#16 := by split <;> simp
  simp only [commandFields, List.forall_mem_cons, List.not_mem_nil, false_imp_iff, implies_true, and_true]
  exact ⟨hopc, hflag .., respBits_and_resp c r.rk, hflag .., hflag .., hflag .., hflag ..⟩

/-- The response bits by the kind's code (R94, R135). -/
theorem respBits_eq (c : Cfg) (rk : BitVec 3) : respBits c rk =
    if rk = c.rk.none then c.cw.respNone else if rk = c.rk.r32 then c.cw.respR1
    else if rk = c.rk.r136 then c.cw.respR2 else if rk = c.rk.r32b then c.cw.respR1b else 0#16 := by
  unfold respBits respKind
  split_ifs <;> rfl

/-- Settles O16: the command word is composed of values inside disjoint fields, so each reads back. -/
theorem commandWordFieldsReadBack : Obligations.CommandWordFieldsReadBack := by
  unfold Obligations.CommandWordFieldsReadBack
  intro c r hc ho
  obtain ⟨hoverlap, -⟩ := hc.cw
  have hin := commandFields_inside hc ho
  have hfields : noOverlap ((commandFields c r).map Prod.snd) := hoverlap
  have hdis := List.pairwise_map.1 hfields
  have hread {v f : Half} (hp : (v, f) ∈ commandFields c r) : commandWord c r &&& f = v := by
    rw [commandWord_eq_orAll]
    exact orAll_and_field hin hdis hp
  have hout : commandWord c r &&& ~~~ orAll ((commandFields c r).map Prod.snd) = 0#16 := by
    rw [commandWord_eq_orAll]
    exact orAll_and_not_fields hin
  refine ⟨hread ?_, (hread ?_).trans (respBits_eq c r.rk), hread ?_, hread ?_, hread ?_, hread ?_, hread ?_,
    by simpa [commandFields, orAll, CwCfg.resp, BitVec.or_assoc] using hout⟩ <;>
    simp [commandFields, CwCfg.resp]

/-! ### The clock requests APPLY refuses (R111, U8) -/

/-- The clock-control word is missing exactly for the clock requests that are not admitted (U8). -/
theorem clkWord_eq_none_iff (c : Cfg) (hz : Word) (off : Bool) :
    clkWord c hz off = none ↔ applyAdmitted c hz = false := by
  by_cases h : hz = 0#32 <;> simp [clkWord, applyAdmitted, h]

namespace Machine

/-- APPLY refuses exactly the clock requests that are not admitted, whatever the width and `power_off` (log 11). -/
theorem exec_apply_refused_iff (hz : Word) (width : BitVec 8) (off : Bool) (s : State) :
    exec (.apply hz width off) s = .refused .clockOutOfRange ↔ applyAdmitted s.cfg hz = false := by
  rw [← clkWord_eq_none_iff s.cfg hz off]
  simp only [exec, execApply]
  cases clkWord s.cfg hz off with
  | none => simp
  | some clk => cases optWord s.cfg width <;> simp

/-- Settles O22: 512 is the greatest power of two whose quarter fits the 8 bits of `CFG_REF`'s `CLK_CODE`. -/
theorem applyRefusesDividersAbove512 : Obligations.ApplyRefusesDividersAbove512 := by
  unfold Obligations.ApplyRefusesDividersAbove512
  intro s hz width off hclk hpos
  have hbits : s.cfg.clk.codeBits = 8 := by rw [hclk]; rfl
  have hne : hz ≠ 0#32 := by
    rintro rfl
    simp at hpos
  rw [exec_apply_refused_iff, ← Bool.not_eq_true, applyAdmitted_iff, hbits]
  constructor
  · intro h
    by_contra hle
    exact h (.inr ⟨9, by omega, by norm_num⟩)
  · rintro hlt (h | ⟨k, hk, hfit⟩)
    · exact hne h
    · have : k < 10 := (Nat.pow_lt_pow_iff_right (a := 2) (by omega)).1 (by omega)
      have : 2 ^ k ≤ 2 ^ 9 := Nat.pow_le_pow_right (by omega) (by omega)
      omega

end Machine

end Sys2Proof
end

section
/-! PROOFS. The dispatcher: the four ways through SUBMIT with the state each leaves (R130 to R140), its side effects
per call (R141), and the count of accepted requests that every instruction keeps (R144, R198). -/

namespace Sys2Proof.Machine

/-! ### The four ways through SUBMIT (R131 to R134) -/

section FourWays

variable {s : State} {i : Instr} {req : Request}

/-- A SUBMIT row of a well-formed request takes a step (R130). -/
theorem exec_submitted_of_wellFormed (hi : i.submitted = some req) (hd : requestDefect s.cfg req = none) :
    exec i s = .next (release (submitBody req (acquire s))) :=
  (exec_submitted hi s).trans (submitOp_of_wellFormed hd)

/-- With a request in flight: the busy fault (R131). -/
theorem exec_submitted_busy (hi : i.submitted = some req) (hd : requestDefect s.cfg req = none)
    (hv : s.ifV = true) :
    exec i s = .next (release (raise .busySubmit (emit (.log .busySubmit) (acquire s)))) := by
  rw [exec_submitted_of_wellFormed hi hd]
  simp [submitBody, hv]

/-- With the slot empty and no card: the no-card path (R132). -/
theorem exec_submitted_absent (hi : i.submitted = some req) (hd : requestDefect s.cfg req = none)
    (hv : s.ifV = false) (hp : stBit (regValue .irqStatus s) s.cfg.st.present = false) :
    exec i s = .next (release (noCardOp req (regRead .irqStatus (acquire s)))) := by
  rw [exec_submitted_of_wellFormed hi hd]
  simp [submitBody, hv, hp]

/-- The stop-transmission command with a card: latched and completed at once (R134). -/
theorem exec_submitted_stop (hi : i.submitted = some req) (hd : requestDefect s.cfg req = none)
    (hv : s.ifV = false) (hp : stBit (regValue .irqStatus s) s.cfg.st.present = true)
    (ho : req.opc = s.cfg.opc.stop) :
    exec i s = .next (release (stopOp (latch req (regRead .irqStatus (acquire s))))) := by
  rw [exec_submitted_of_wellFormed hi hd]
  simp [submitBody, acceptRequest, latch, hv, hp, ho]

/-- Any other command with a card: latched, and its register program run (R133, R135). -/
theorem exec_submitted_program (hi : i.submitted = some req) (hd : requestDefect s.cfg req = none)
    (hv : s.ifV = false) (hp : stBit (regValue .irqStatus s) s.cfg.st.present = true)
    (ho : req.opc ≠ s.cfg.opc.stop) :
    exec i s = .next (release (registerProgram (latch req (regRead .irqStatus (acquire s))))) := by
  rw [exec_submitted_of_wellFormed hi hd]
  simp [submitBody, acceptRequest, latch, hv, hp, ho]

/-- The presence read of SUBMIT, in one record (R132). -/
theorem presenceRead_eq (s : State) : regRead .irqStatus (acquire s) = { consumeAnswer s with
    lock := .held
    ctl := { s.ctl with irqStatus := regValue .irqStatus s }
    history := s.history ++ [.regRead .irqStatus (regValue .irqStatus s)] } := rfl

end FourWays

/-- Settles O11: the log event and `FAULT`, under the lock (R131). -/
theorem busySubmitSetsFaultAndNothingElse : Obligations.BusySubmitSetsFaultAndNothingElse := by
  unfold Obligations.BusySubmitSetsFaultAndNothingElse
  intro s i req hi hd hv
  rw [exec_submitted_busy hi hd hv]
  rfl

/-- Settles O12: the presence read and one notification (R132). -/
theorem submitWithoutCardNotifiesNoMedium : Obligations.SubmitWithoutCardNotifiesNoMedium := by
  unfold Obligations.SubmitWithoutCardNotifiesNoMedium
  intro s i req hi hd hv hp
  rw [exec_submitted_absent hi hd hv hp, presenceRead_eq]
  simp [noCardOp, emit, release]

/-- Settles O13: the STOP path in one record, on the request just latched (R134). -/
theorem stopTransmissionCompletesAtOnce : Obligations.StopTransmissionCompletesAtOnce := by
  unfold Obligations.StopTransmissionCompletesAtOnce
  intro s i req hi hd hv hp ho
  rw [exec_submitted_stop hi hd hv hp ho, stopOp_eq rfl, presenceRead_eq]
  simp [release, latch, ho]

/-- Settles O14: without data the register program is the log of an unrecognised kind and the arming writes
(R136, R140). -/
theorem submitWithoutDataArmsTheController : Obligations.SubmitWithoutDataArmsTheController := by
  unfold Obligations.SubmitWithoutDataArmsTheController
  intro s i req hi hd hv hp ho hdata
  rw [exec_submitted_program hi hd hv hp ho, registerProgram_eq, presenceRead_eq]
  simp only [← respKind_unrecognised_iff]
  simp [release, latch, hdata]

/-- Settles O15: with data the whole register program runs, the stop write for more than one block only
(R138 to R140). -/
theorem submitWithDataProgramsTheTransfer : Obligations.SubmitWithDataProgramsTheTransfer := by
  unfold Obligations.SubmitWithDataProgramsTheTransfer
  intro s i req hi hd hv hp ho hdata
  rw [exec_submitted_program hi hd hv hp ho, registerProgram_eq, presenceRead_eq]
  simp only [← respKind_unrecognised_iff]
  simp [release, latch, hdata]

/-! ### Side effects of one SUBMIT (R141) -/

namespace Event

@[simp] theorem isRegWrite_regRead (r : RegName) (v : Word) : (Event.regRead r v).isRegWrite = false := rfl
@[simp] theorem isRegWrite_regWrite (r : RegName) (v : Word) : (Event.regWrite r v).isRegWrite = true := rfl
@[simp] theorem isRegWrite_done (snap : Snapshot) : (Event.done snap).isRegWrite = false := rfl
@[simp] theorem isRegWrite_log (k : LogKind) : (Event.log k).isRegWrite = false := rfl

@[simp] theorem isDone_regRead (r : RegName) (v : Word) : (Event.regRead r v).isDone = false := rfl
@[simp] theorem isDone_regWrite (r : RegName) (v : Word) : (Event.regWrite r v).isDone = false := rfl
@[simp] theorem isDone_done (snap : Snapshot) : (Event.done snap).isDone = true := rfl
@[simp] theorem isDone_log (k : LogKind) : (Event.log k).isDone = false := rfl

end Event

/-- The register writes of a register program: two without data, four for one block, five for more; the log of
an unrecognised kind is none. -/
theorem registerProgram_writes {s : State} {req : Request} (hq : s.q = req) :
    (registerProgram s).history.countP Event.isRegWrite = s.history.countP Event.isRegWrite
      + (if req.hasData = false then 2 else if req.blocks.toNat ≤ 1 then 4 else 5) := by
  subst hq
  rw [registerProgram_eq]
  cases s.q.hasData
  · simp [List.countP_cons, List.mem_ite_nil_right]
  · by_cases hb : s.q.blocks.toNat ≤ 1
    · simp [List.countP_cons, List.mem_ite_nil_right, hb, Nat.not_lt.2 hb]
    · simp [List.countP_cons, List.mem_ite_nil_right, hb, Nat.not_le.1 hb]

@[simp] theorem registerProgram_ifV (s : State) : (registerProgram s).ifV = s.ifV := by rw [registerProgram_eq]

theorem doneCount_of_appends {s t : State} (h : Appends (fun e => e.isDone = false) s t) :
    doneCount t = doneCount s := by
  obtain ⟨es, hes, hdone⟩ := h
  simpa [doneCount, hes] using hdone

theorem doneCount_registerProgram (s : State) : doneCount (registerProgram s) = doneCount s :=
  doneCount_of_appends
    (appends_registerProgram s (fun _ => rfl) (fun _ _ => rfl) (fun _ _ => ⟨rfl, rfl⟩) fun _ => ⟨rfl, rfl⟩)

/-- Settles O17, by the four ways through SUBMIT. -/
theorem submitSideEffectsPerCall : Obligations.SubmitSideEffectsPerCall := by
  unfold Obligations.SubmitSideEffectsPerCall
  intro s t i req hi h
  obtain ⟨-, ⟨hv, rfl⟩ | ⟨hv, hp, rfl⟩ | ⟨hv, hp, ho, rfl⟩ | ⟨hv, hp, ho, rfl⟩⟩ := submit_cases hi h
  · simp [hv, doneCount]
  · simp [hv, hp, noCardOp, doneCount]
  · rw [stopOp_eq rfl]
    simp [hv, hp, ho, doneCount, List.countP_cons]
  · have hwrites := registerProgram_writes (latch_q (regRead .irqStatus (acquire s)) req)
    have hpath : ¬ (s.ifV = false ∧
        (stBit (regValue .irqStatus s) s.cfg.st.present = false ∨ req.opc = s.cfg.opc.stop)) := by
      simp [hp, ho]
    refine ⟨by simpa [hv, hp, ho] using hwrites, ?_⟩
    rw [if_neg hpath]
    have hdone := doneCount_registerProgram (latch req (regRead .irqStatus (acquire s)))
    exact ⟨by simp, hdone.trans (by simp [doneCount])⟩

/-! ### Notifications and requests in flight (R144, R198) -/

/-- The requests accounted for: notified, or in flight. -/
def accounted (s : State) : Nat := doneCount s + inFlight s

/-- What emits no notification and leaves the slot alone keeps the account. -/
theorem accounted_of_appends {s t : State} (h : Appends (fun e => e.isDone = false) s t) (hv : t.ifV = s.ifV) :
    accounted t = accounted s := by
  simp [accounted, inFlight, doneCount_of_appends h, hv]

/-- COMPLETE gives one notification for the request it takes out of the slot (R196, R198). -/
@[simp] theorem accounted_completeOp (e : BitVec 4) (s : State) : accounted (completeOp e s) = accounted s := by
  cases hv : s.ifV
  · rw [completeOp_of_empty e hv]
  · rw [completeOp_of_inFlight e hv]
    simp [accounted, doneCount, inFlight, hv]

theorem accounted_emit {e : Event} (he : e.isDone = false) (s : State) : accounted (emit e s) = accounted s :=
  accounted_of_appends (appends_emit s he) rfl

@[simp] theorem accounted_regRead (r : RegName) (s : State) : accounted (regRead r s) = accounted s :=
  accounted_of_appends (appends_regRead s fun _ => rfl) rfl

@[simp] theorem accounted_regWrite (r : RegName) (v : Word) (s : State) :
    accounted (regWrite r v s) = accounted s :=
  accounted_of_appends (appends_regWrite s rfl) rfl

@[simp] theorem accounted_acquire (s : State) : accounted (acquire s) = accounted s := rfl
@[simp] theorem accounted_release (s : State) : accounted (release s) = accounted s := rfl

@[simp] theorem accounted_hwReset (s : State) : accounted (hwReset s) = accounted s :=
  accounted_of_appends (.one rfl rfl) rfl

@[simp] theorem accounted_applyWrites (clk opt : Half) (s : State) :
    accounted (applyWrites clk opt s) = accounted s := by
  unfold applyWrites
  rw [accounted_emit rfl, accounted_regWrite, accounted_regWrite]

@[simp] theorem accounted_hotplugOp (s : State) : accounted (hotplugOp s) = accounted s := by
  unfold hotplugOp hotplugTail
  rw [accounted_emit rfl]
  split <;> simp

@[simp] theorem accounted_errclassOp (st : Word) (s : State) : accounted (errclassOp st s) = accounted s := by
  refine accounted_of_appends (appends_errclassOp st s fun _ => rfl) ?_
  rw [errclassOp, attachError_eq]
  unfold logIoError
  split <;> rfl

@[simp] theorem accounted_pumpOp (s : State) : accounted (pumpOp s) = accounted s := by
  refine accounted_of_appends
    (appends_pumpOp s (fun _ => rfl) (fun _ _ _ _ => ⟨rfl, rfl⟩) fun _ _ _ _ => ⟨rfl, rfl⟩) ?_
  obtain ⟨-, he⟩ | ⟨-, -, he⟩ | ⟨-, -, he⟩ := pumpOp_cases s <;> rw [he]
  · rfl
  · unfold pumpBlock
    split <;> simp

/-- The capture emits reads alone, and the completion behind it is COMPLETE's (R180, R185). -/
@[simp] theorem accounted_respcapOp (st : Word) (s : State) : accounted (respcapOp st s) = accounted s := by
  have hcap : accounted (capture s) = accounted s := by
    refine accounted_of_appends (appends_capture s fun _ _ _ => rfl) ?_
    unfold capture
    split <;> simp [captureShort, captureLong, captureUnknown]
  have hdone : accounted (completeUnlessData (capture s)) = accounted (capture s) := by
    unfold completeUnlessData
    split
    · rfl
    · exact accounted_completeOp _ _
  unfold respcapOp
  split
  · split
    · rw [hdone, hcap]
    · exact accounted_emit rfl s
  · rfl

/-- The STOP write is no notification, and the completion behind it is COMPLETE's (R190 to R194). -/
@[simp] theorem accounted_dataendOp (st : Word) (s : State) : accounted (dataendOp st s) = accounted s := by
  unfold dataendOp
  split
  · split
    · exact (accounted_completeOp _ _).trans (accounted_regWrite .stop 0#32 (recordBytes s))
    · exact accounted_emit rfl s
  · rfl

/-- One batch, by its four exits (R232). -/
theorem accounted_irq {s t : State} (h : exec .irq s = .next t) : accounted t = accounted s := by
  have hack : accounted (afterAck s) = accounted s := by simp [afterAck, acknowledge]
  obtain ⟨hirq, hcases⟩ := irq_cases s
  cases hirq.symm.trans h
  obtain ⟨-, he⟩ | ⟨-, -, he⟩ | ⟨-, -, -, he⟩ | ⟨-, -, -, he⟩ := hcases <;> rw [he]
  · simp [hack]
  · simp [hack]
  · simp [hack]
  · simp [handleInOrder, hack]

/-- A SUBMIT that takes a step adds the request it found room for: in flight, or notified about at once. -/
theorem accounted_submit {s t : State} {i : Instr} {req : Request} (hi : i.submitted = some req)
    (h : exec i s = .next t) : accounted t = accounted s + (if s.ifV = false then 1 else 0) := by
  obtain ⟨-, hafter⟩ := submitSideEffectsPerCall s t i req hi h
  unfold accounted inFlight
  split at hafter
  next hnow =>
    obtain ⟨ht, hdone⟩ := hafter
    simp [hnow, ht, hdone]
  next =>
    obtain ⟨ht, hdone⟩ := hafter
    cases hv : s.ifV <;> simp [ht, hdone]

/-- The no-card path notifies about a request it found room for, and does nothing otherwise (R132; log 15). -/
theorem accounted_submitNocard {s t : State} {req : Request} (h : exec (.submitNocard req) s = .next t) :
    accounted t = accounted s + (if s.ifV = false then 1 else 0) := by
  obtain ⟨-, rfl⟩ := execSubmitNocard_next h
  cases hv : s.ifV
  · simp [accounted, doneCount, inFlight, noCardOp, hv]
  · simp

/-- Settles O53: a row that takes a request adds it to the account, and every other row keeps the account. -/
theorem notificationsPlusInFlightCountAcceptedRequests :
    Obligations.NotificationsPlusInFlightCountAcceptedRequests := by
  unfold Obligations.NotificationsPlusInFlightCountAcceptedRequests
  intro s t i hr h
  change accounted t = accounted s + _
  cases i with
  | attachReset => exact absurd rfl hr
  | submit req | submitStop req | submitSec52 req | submitSec53 req | submitApp req =>
    simpa [Instr.takesRequest] using accounted_submit rfl h
  | submitNocard req => simpa [Instr.takesRequest] using accounted_submitNocard h
  | apply hz width off =>
    obtain ⟨clk, -, ⟨-, rfl⟩ | ⟨opt, -, rfl⟩⟩ := execApply_next h
    · exact accounted_emit rfl (acquire s)
    · exact accounted_applyWrites clk opt (acquire s)
  | getCd => cases h; exact (accounted_emit rfl _).trans (accounted_regRead _ (acquire s))
  | getRo => cases h; exact (accounted_emit rfl _).trans (accounted_regRead _ (acquire s))
  | sdioEn en => cases h; rfl
  | irq => exact accounted_irq h
  | sdioIrq =>
    cases h
    split
    · exact accounted_emit rfl (acquire s)
    · rfl
  | errclass st =>
    cases h
    split
    · exact accounted_errclassOp st s
    · rfl
  | hotplug => cases h; exact accounted_hotplugOp s
  | pump => cases h; exact accounted_pumpOp s
  | respcap st => cases h; exact accounted_respcapOp st s
  | dataend st => cases h; exact accounted_dataendOp st s
  | complete e => cases h; exact accounted_completeOp e s
  | hwreset => cases h; exact accounted_hwReset s

end Sys2Proof.Machine
end

section
/-! PROOFS. The interrupt handler: the error classification (R159, R160), the exits of a batch (R152, R154 to
R163), HOTPLUG and HWRESET (R155, R156), and the batch that completes a command without data (R180 to R185). -/

namespace Sys2Proof

/-! ### The error classification (R103, R159) -/

/-- The bits of `ERR_OTHER` in a legal configuration: the error group's without command timeout and CRC
failure (R103). -/
theorem stBit_errOther {c : Cfg} (h : c.st.bits.Nodup) (j : Fin 32) : stBit c.errOther j = true ↔
    j ∈ [c.st.badCmd, c.st.stopBit, c.st.dataTimeout, c.st.rxOverflow, c.st.txUnderrun, c.st.illAccess] := by
  have hrev := List.nodup_reverse.2 h
  simp only [StCfg.bits, List.reverse_cons, List.reverse_nil, List.nil_append, List.cons_append, List.nodup_cons,
    List.mem_cons, List.not_mem_nil, or_false, not_or] at h hrev
  rw [Cfg.errOther, stBit_and, Bool.and_eq_true, stBit_errGroup]
  simp only [stBit_not, stBit_or, stBit_bitMask, Bool.not_eq_true', Bool.or_eq_false_iff,
    decide_eq_false_iff_not, List.mem_cons, List.not_mem_nil, or_false]
  constructor
  · rintro ⟨hj, hcmd, hcrc⟩
    simpa only [hcmd, hcrc, false_or] using hj
  · rintro (rfl | rfl | rfl | rfl | rfl | rfl) <;> simp [h, hrev]

/-- A snapshot meets `ERR_OTHER` when one of the six other error bits is set (R159). -/
theorem errOther_ne_zero_iff {c : Cfg} (h : c.st.bits.Nodup) (st : Word) : (st &&& c.errOther != 0#32) = true ↔
    stBit st c.st.badCmd = true ∨ stBit st c.st.stopBit = true ∨ stBit st c.st.dataTimeout = true ∨
      stBit st c.st.rxOverflow = true ∨ stBit st c.st.txUnderrun = true ∨ stBit st c.st.illAccess = true := by
  rw [and_ne_zero_iff]
  simp [stBit_errOther h, and_or_left, exists_or]

/-- Settles O33: the third test of the chain is one of the six other error bits. -/
theorem classificationFollowsThePriorityChain : Obligations.ClassificationFollowsThePriorityChain := by
  unfold Obligations.ClassificationFollowsThePriorityChain
  intro c st hc
  simp only [classify, errOther_ne_zero_iff hc.st]

namespace Machine

/-! ### ERRCLASS, HWRESET and HOTPLUG by themselves (R155, R156, R159, R160) -/

/-- ERRCLASS where IRQ selects it (R92). -/
theorem exec_errclass_selected {s : State} {st : Word} (hv : s.ifV = true)
    (hh : hotplugEvent s.cfg st = false) : exec (.errclass st) s = .next (errclassOp st s) := by
  simp [exec, execErrclass, hv, hh]

/-- ERRCLASS where IRQ does not select it (log 15). -/
theorem exec_errclass_unselected {s : State} {st : Word} (h : s.ifV = false ∨ hotplugEvent s.cfg st = true) :
    exec (.errclass st) s = .next s := by
  obtain h | h := h <;> simp [exec, execErrclass, h]

/-- Settles O34: ERRCLASS in one record where it is selected. -/
theorem errclassAttachesTheClassifiedError : Obligations.ErrclassAttachesTheClassifiedError := by
  unfold Obligations.ErrclassAttachesTheClassifiedError
  exact fun s st hc => ⟨fun hv hh =>
    (exec_errclass_selected hv hh).trans (congrArg _ (errclassOp_eq hc.errs st)), exec_errclass_unselected⟩

/-- Settles O32: the reset's event and the fields it leaves (R156). -/
theorem hardwareResetKeepsSequencerState : Obligations.HardwareResetKeepsSequencerState :=
  fun s => ⟨hwReset s, rfl, rfl, rfl, rfl, rfl, rfl, rfl, rfl, rfl, rfl, rfl, rfl, rfl, rfl, rfl, fun _ => rfl⟩

/-- The presence re-read after the reset, in one record (R155, R156). -/
theorem presenceReread_eq (s : State) :
    let st2 := regValue .irqStatus { s with draws := s.draws + 15 }
    regRead .irqStatus (hwReset s) = { consumeAnswer { s with draws := s.draws + 15 } with
      ctl := (freeCtl s.cfg s.draws).set .irqStatus st2
      history := s.history ++ [.hwReset, .regRead .irqStatus st2] } := by
  rw [regRead, regValue_hwReset]
  simp [emit, hwReset, consumeAnswer]

/-- HOTPLUG in one record, by what the re-read answers: `gone` says that it shows no card and a request is in
flight (R155). -/
theorem hotplugOp_eq {s : State} {st2 : Word} {gone : Prop} [Decidable gone] (hc : s.cfg.err.codes.Nodup)
    (hst2 : regValue .irqStatus { s with draws := s.draws + 15 } = st2)
    (hgone : gone ↔ s.ifV = true ∧ stBit st2 s.cfg.st.present = false) :
    hotplugOp s = { consumeAnswer { s with draws := s.draws + 15 } with
      ifV := s.ifV && stBit st2 s.cfg.st.present
      curV := if gone then false else s.curV
      q := if gone then { s.q with err := s.cfg.err.noMedium } else s.q
      ctl := (freeCtl s.cfg s.draws).set .irqStatus st2
      history := s.history ++ [.hwReset, .regRead .irqStatus st2]
        ++ (if gone then [.done (snapshotOf { s.q with err := s.cfg.err.noMedium })] else []) ++ [.card] } := by
  obtain ⟨hne, -⟩ := errs_ne_none hc
  cases hp : stBit st2 s.cfg.st.present with
  | true =>
    rw [hotplugOp_of_present (hst2 ▸ hp), presenceReread_eq, hst2]
    simp [hgone, hp, emit, consumeAnswer]
  | false =>
    rw [hotplugOp_of_absent (hst2 ▸ hp), presenceReread_eq, hst2]
    obtain hv | hv := Bool.eq_false_or_eq_true s.ifV
    · rw [completeOp_of_inFlight _ (by exact hv)]
      simp [hgone, hp, hv, hne, emit, consumeAnswer]
    · rw [completeOp_of_empty _ (by exact hv)]
      simp [hgone, hv, emit, consumeAnswer]

/-- Settles O31: HOTPLUG in one record. -/
theorem hotplugResetsAndReportsTheCard : Obligations.HotplugResetsAndReportsTheCard := by
  unfold Obligations.HotplugResetsAndReportsTheCard
  intro s hc st2 gone
  refine ⟨hotplugOp s, rfl, ?_⟩
  rw [hotplugOp_eq hc.errs rfl (gone := gone) Iff.rfl]
  exact ⟨rfl, rfl, rfl, rfl, rfl, rfl, rfl, rfl, rfl, rfl, rfl, rfl, rfl, fun _ => rfl⟩

/-! ### The exits of a batch (R154, R157, R158, R161, R232) -/

section Exits

variable {s : State} {st : Word} (hst : regValue .irqStatus s = st)
include hst

/-- A batch with an insertion or removal bit runs HOTPLUG alone (R154, R157). -/
theorem exec_irq_hotplug (h : hotplugEvent s.cfg st = true) :
    exec .irq s = .next (release (hotplugOp (afterAck s))) := by
  simp [(irq_cases s).1, dispatchBatch, hst, h]

/-- With no request in flight and no hotplug event the batch ends after the acknowledge (R158). -/
theorem exec_irq_spurious (h : hotplugEvent s.cfg st = false) (hv : s.ifV = false) :
    exec .irq s = .next (release (afterAck s)) := by
  simp [(irq_cases s).1, dispatchBatch, hst, h, hv]

/-- An error other than a timeout ends the batch after ERRCLASS (R161). -/
theorem exec_irq_abort (h : hotplugEvent s.cfg st = false) (hv : s.ifV = true)
    (ha : classify s.cfg st = .dataIntegrity ∨ classify s.cfg st = .io) :
    exec .irq s = .next (release (errclassOp st (afterAck s))) := by
  simp [(irq_cases s).1, dispatchBatch, batchForRequest, hst, h, hv, aborts_eq_true.2 ha]

/-- Otherwise the batch runs ERRCLASS and then the three handlers (R161, R163). -/
theorem exec_irq_noAbort (h : hotplugEvent s.cfg st = false) (hv : s.ifV = true)
    (ha : classify s.cfg st = .noError ∨ classify s.cfg st = .timeout) :
    exec .irq s = .next (release (handleInOrder st (errclassOp st (afterAck s)))) := by
  simp [(irq_cases s).1, dispatchBatch, batchForRequest, hst, h, hv, aborts_eq_false.2 ha]

/-- The state after the acknowledge and ERRCLASS, in one record (R152, R159, R160). -/
theorem classified_eq {ack : Word} (hack : truncToReg s.cfg .irqStatus (ackSet s.cfg st) = ack)
    (hc : s.cfg.err.codes.Nodup) :
    errclassOp st (afterAck s) = { consumeAnswer s with
      lock := .held
      q := { s.q with err := match classify s.cfg st with
        | .noError => s.q.err
        | .timeout => s.cfg.err.timeout
        | .dataIntegrity => s.cfg.err.dataIntegrity
        | .io => s.cfg.err.io }
      ctl := { s.ctl with irqStatus := st &&& ~~~(ack &&& s.cfg.irqKnown) }
      history := s.history ++ [.regRead .irqStatus st, .regWrite .irqStatus ack]
        ++ (if classify s.cfg st = .io then [.log (.ioErrBits (st &&& s.cfg.errGroup))] else []) } := by
  subst hst hack
  rw [errclassOp_eq (by exact hc), afterAck_eq]
  rfl

end Exits

/-- Settles O26: the spurious exit changes nothing after the acknowledge. -/
theorem spuriousInterruptOnlyAcknowledges : Obligations.SpuriousInterruptOnlyAcknowledges := by
  unfold Obligations.SpuriousInterruptOnlyAcknowledges
  intro s hv st ack hh
  rw [exec_irq_spurious rfl hh hv, afterAck_eq]
  rfl

/-- Settles O27: the error-abort exit is ERRCLASS on the acknowledged state. -/
theorem errorAbortLeavesTheRequestInFlight : Obligations.ErrorAbortLeavesTheRequestInFlight := by
  unfold Obligations.ErrorAbortLeavesTheRequestInFlight
  intro s hc hv st ack hh ha
  rw [exec_irq_abort (st := st) rfl hh hv ha, classified_eq (st := st) (ack := ack) rfl rfl hc.errs]
  obtain ha | ha := ha <;> simp [release, ha]

/-- Settles O29: the full path runs ERRCLASS and the three handlers in turn, each a row of its own. -/
theorem batchRunsHandlersInFixedOrder : Obligations.BatchRunsHandlersInFixedOrder := by
  unfold Obligations.BatchRunsHandlersInFixedOrder
  intro s hv st ack hh ha
  refine ⟨errclassOp st (afterAck s), _, _, _, ?_, rfl, rfl, rfl, exec_irq_noAbort rfl hh hv ha⟩
  rw [afterAck_eq]
  exact exec_errclass_selected hv hh

/-- Settles O30: the hotplug exit is HOTPLUG on the acknowledged state. -/
theorem hotplugBatchIsExclusive : Obligations.HotplugBatchIsExclusive := by
  unfold Obligations.HotplugBatchIsExclusive
  intro s hc st ack st2 gone hh
  refine ⟨_, exec_irq_hotplug rfl hh, ?_⟩
  rw [hotplugOp_eq (s := afterAck s) (st2 := st2) (gone := gone) hc.errs rfl Iff.rfl]
  have hf := frame_afterAck s
  refine ⟨?_, rfl, rfl, rfl, rfl, rfl, hf.sdioEn, hf.fault, rfl, rfl, hf.inputs, hf.calls, hf.fresh, fun _ => rfl⟩
  simp [afterAck_history, st, ack]

/-! ### Capture and completion of a command (R180 to R185, R191) -/

/-- The register reads that the request's response kind asks for (R181, R182, R184). -/
def responseReads (s : State) : List Event :=
  match respKind s.cfg s.q.rk with
  | .none | .unrecognised => []
  | .r32 | .r32b => [.regRead .resp0 (valueAt .resp0 0 s)]
  | .r136 => [.regRead .resp0 (valueAt .resp0 0 s), .regRead .resp1 (valueAt .resp1 1 s),
      .regRead .resp2 (valueAt .resp2 2 s), .regRead .resp3 (valueAt .resp3 3 s)]

/-- A capture appends its reads and leaves alone all but the latch file, the controller's registers and the
answers (R180 to R184). -/
theorem capture_eq (s : State) : capture s = { s with
    q := (capture s).q
    ctl := (capture s).ctl
    answers := (capture s).answers
    draws := (capture s).draws
    history := s.history ++ responseReads s } := by
  unfold capture responseReads
  cases hk : respKind s.cfg s.q.rk with
  | none => simp
  | r32 | r32b => simp [captureShort_eq, valueAt, regValue, answerAt]
  | r136 => simp [captureLong_eq, setResp]
  | unrecognised => simp [captureUnknown, setResp]

/-- A capture writes the response words of the latch file alone (R24). -/
theorem capture_q (s : State) : { (capture s).q with
    resp0 := s.q.resp0, resp1 := s.q.resp1, resp2 := s.q.resp2, resp3 := s.q.resp3 } = s.q := by
  unfold capture
  cases respKind s.cfg s.q.rk <;> rfl

/-- A capture's reads are of the response registers alone (R40). -/
theorem capture_ctl (s : State) : { (capture s).ctl with
    resp0 := s.ctl.resp0, resp1 := s.ctl.resp1, resp2 := s.ctl.resp2, resp3 := s.ctl.resp3 } = s.ctl := by
  unfold capture
  cases respKind s.cfg s.q.rk <;> rfl

/-- Kind NONE: no read, and nothing captured (R180). -/
theorem capture_none {s : State} (hk : respKind s.cfg s.q.rk = .none) :
    responseReads s = [] ∧ capture s = s := by
  simp [capture, responseReads, hk]

/-- A short response: one read, into the first response word (R181). -/
theorem capture_short {s : State} (hk : respKind s.cfg s.q.rk = .r32 ∨ respKind s.cfg s.q.rk = .r32b) :
    responseReads s = [.regRead .resp0 (valueAt .resp0 0 s)] ∧
      (capture s).q = { s.q with resp0 := valueAt .resp0 0 s } := by
  obtain hk | hk := hk <;> simp [capture, responseReads, hk, captureShort_eq, valueAt, regValue, answerAt]

/-- A 136-bit response: four reads, and their repacking (R182, R183). -/
theorem capture_long {s : State} (hk : respKind s.cfg s.q.rk = .r136) :
    responseReads s = [.regRead .resp0 (valueAt .resp0 0 s), .regRead .resp1 (valueAt .resp1 1 s),
        .regRead .resp2 (valueAt .resp2 2 s), .regRead .resp3 (valueAt .resp3 3 s)] ∧
      ((capture s).q.resp0, (capture s).q.resp1, (capture s).q.resp2, (capture s).q.resp3) =
        repack136 s.cfg (valueAt .resp0 0 s) (valueAt .resp1 1 s) (valueAt .resp2 2 s) (valueAt .resp3 3 s) := by
  simp [capture, responseReads, hk, captureLong_eq]

/-- An unrecognised kind: no read (R184). -/
theorem responseReads_unrecognised {s : State} (hk : respKind s.cfg s.q.rk = .unrecognised) :
    responseReads s = [] := by
  simp [responseReads, hk]

/-- Each read of a capture uses one answer; only an unrecognised kind draws free words (R78, R184). -/
theorem answerAt_capture {s : State} (hu : respKind s.cfg s.q.rk ≠ .unrecognised) (n : Nat) :
    answerAt n (capture s) = answerAt (n + (responseReads s).length) s := by
  unfold capture responseReads
  cases hk : respKind s.cfg s.q.rk with
  | none => rfl
  | r32 | r32b =>
    exact (answerAt_congr (s := regRead .resp0 s) (t := captureShort s) rfl rfl n).trans (answerAt_regRead _ s n)
  | r136 =>
    have h := answerAt_congr (s := regRead .resp3 (regRead .resp2 (regRead .resp1 (regRead .resp0 s))))
      (t := captureLong s) rfl rfl n
    simp only [answerAt_regRead] at h
    exact h
  | unrecognised => exact absurd hk hu

/-- The rest of a batch for a command without data: no PUMP, the capture, the completion, and a data-end bit
logged as spurious (R171, R185, R191). -/
theorem handleInOrder_command {s : State} {st : Word} (hv : s.ifV = true) (hd : s.q.hasData = false)
    (hb : stBit st s.cfg.st.respEnd = true) :
    handleInOrder st s = { s with
      ifV := false
      curV := false
      q := (capture s).q
      ctl := (capture s).ctl
      answers := (capture s).answers
      draws := (capture s).draws
      history := s.history ++ responseReads s ++ [.done (snapshotOf (capture s).q)]
        ++ (if stBit st s.cfg.st.dataEnd = true then [.log .desyncDend] else []) } := by
  have hpump : pumpOp s = s := by simp [pumpOp, pumpTriggered, hd]
  have hdata : (capture s).q.hasData = false := (frame_capture s).hasData.trans hd
  rw [handleInOrder, hpump, respcapOp_of_active hv hb, capture_eq, completeUnlessData_eq (by exact hv)]
  simp only [dataendOp, hdata]
  split <;> simp [emit]

/-- What a batch without abort has done to a state before its handlers run: the acknowledge and a timeout
attached, `st` being the snapshot and `ack` the value acknowledged (R152, R160, R161). -/
structure Classified (s : State) (st ack : Word) (u : State) : Prop where
  cfg     : u.cfg = s.cfg
  ifV     : u.ifV = s.ifV
  q       : u.q = { s.q with err := if classify s.cfg st = .timeout then s.cfg.err.timeout else s.q.err }
  ctl     : u.ctl = { s.ctl with irqStatus := st &&& ~~~(ack &&& s.cfg.irqKnown) }
  history : u.history = s.history ++ [.regRead .irqStatus st, .regWrite .irqStatus ack]
  answers : ∀ n, answerAt n u = answerAt (n + 1) s
  rest    : u.curI = s.curI ∧ u.curO = s.curO ∧ u.sdioEn = s.sdioEn ∧ u.fault = s.fault ∧ u.mem = s.mem ∧
    u.inputs = s.inputs ∧ u.calls = s.calls ∧ u.fresh = s.fresh

namespace Classified

theorem of_noAbort {s : State} {st ack : Word} (hst : regValue .irqStatus s = st)
    (hack : truncToReg s.cfg .irqStatus (ackSet s.cfg st) = ack) (hc : s.cfg.err.codes.Nodup)
    (ha : classify s.cfg st = .noError ∨ classify s.cfg st = .timeout) :
    Classified s st ack (errclassOp st (afterAck s)) := by
  rw [classified_eq hst hack hc]
  refine ⟨rfl, rfl, ?_, rfl, ?_, fun n => answerAt_congr (s := consumeAnswer s) (by rfl) (by rfl) n, by simp⟩
  all_goals obtain ha | ha := ha <;> simp [ha]

variable {s u : State} {st ack : Word} (h : Classified s st ack u)
include h

theorem respKind_eq {k : BitVec 3} (hk : s.q.rk = k) : respKind u.cfg u.q.rk = respKind s.cfg k := by
  rw [h.cfg, h.q, ← hk]

theorem valueAt_eq (r : RegName) (n : Nat) : valueAt r n u = truncToReg s.cfg r (answerAt (n + 1) s) := by
  simp only [valueAt, h.cfg, h.answers]

end Classified

/-- Settles O28: the batch without abort, with the completion of a command in place of its handlers. -/
theorem responseReadyBatchCompletesCommand : Obligations.ResponseReadyBatchCompletesCommand := by
  unfold Obligations.ResponseReadyBatchCompletesCommand
  intro s hc hv hd st ack w0 w1 w2 w3 hh ha hb
  have hirq := exec_irq_noAbort (st := st) rfl hh hv ha
  have hcl : Classified s st ack (errclassOp st (afterAck s)) := .of_noAbort rfl rfl hc.errs ha
  generalize errclassOp st (afterAck s) = u at hirq hcl
  have hbatch := handleInOrder_command (s := u) (st := st) (hcl.ifV.trans hv) (by simp [hcl.q, hd])
    (by rw [hcl.cfg, hb])
  obtain ⟨hnone, hr32, hr136, hr32b⟩ := respKind_codes hc.kinds
  refine ⟨release (handleInOrder st u), (capture u).q, responseReads u, hirq, fun h => ?_, fun h => ?_, fun h => ?_,
    fun h => ?_, fun h n => ?_, ?_, ?_, ?_, ?_⟩
  · obtain ⟨hreads, hcap⟩ := capture_none ((hcl.respKind_eq h).trans hnone)
    exact ⟨hreads, by rw [hcap, hcl.q]⟩
  · obtain ⟨hreads, hcap⟩ := capture_short
      (h.imp (fun h => (hcl.respKind_eq h).trans hr32) fun h => (hcl.respKind_eq h).trans hr32b)
    rw [hcl.valueAt_eq] at hreads hcap
    exact ⟨hreads, by rw [hcap, hcl.q]⟩
  · have hcap := capture_long ((hcl.respKind_eq h).trans hr136)
    simpa only [hcl.valueAt_eq, hcl.cfg] using hcap
  · exact responseReads_unrecognised ((hcl.respKind_eq rfl).trans ((respKind_unrecognised_iff _ _).2 h))
  · have hk : respKind u.cfg u.q.rk ≠ .unrecognised := by
      rw [hcl.respKind_eq rfl, Ne, respKind_unrecognised_iff]
      exact not_not_intro h
    rw [← hcl.answers, ← answerAt_capture hk, hbatch]
    exact answerAt_congr (by rfl) (by rfl) n
  · have herr := congrArg Request.err (capture_q u)
    rw [hcl.q] at herr
    exact herr
  · have hreq := congrArg (fun q : Request => { q with err := s.q.err }) (capture_q u)
    rw [hcl.q] at hreq
    exact hreq
  · have hregs := capture_ctl u
    rw [hcl.ctl] at hregs
    rw [hbatch]
    exact hregs
  · simp [hbatch, release, hcl.history, hcl.cfg, hcl.rest]

end Machine

end Sys2Proof
end

section
/-! PROOFS. The data pump: without a ready transfer (R171, R172), with the list exhausted (R174), the words of one
cycle in either direction (R175, R176), and the count of bytes moved (R177). -/

namespace Sys2Proof.Machine

/-! ### The ways through PUMP, each in one record -/

/-- Without a DataTransfer in flight PUMP does nothing (R171). -/
theorem pumpOp_of_untriggered {s : State} (h : s.ifV = false ∨ s.q.hasData = false) : pumpOp s = s := by
  obtain h | h := h <;> simp [pumpOp, pumpTriggered, h]

/-- The state a ready PUMP moves words from: the flag is read and the cursor stands at `(i, o)` (R172, R173). -/
def pumpStart (i : Nat) (o : Word) (s : State) : State := { regRead .status2 s with curI := i, curO := o }

section StartFields

variable (i : Nat) (o : Word) (s : State)

@[simp] theorem pumpStart_q : (pumpStart i o s).q = s.q := rfl
@[simp] theorem pumpStart_curI : (pumpStart i o s).curI = i := rfl
@[simp] theorem pumpStart_curO : (pumpStart i o s).curO = o := rfl
@[simp] theorem pumpStart_ifV : (pumpStart i o s).ifV = s.ifV := rfl
@[simp] theorem pumpStart_curV : (pumpStart i o s).curV = s.curV := rfl
@[simp] theorem pumpStart_sdioEn : (pumpStart i o s).sdioEn = s.sdioEn := rfl
@[simp] theorem pumpStart_fault : (pumpStart i o s).fault = s.fault := rfl
@[simp] theorem pumpStart_lock : (pumpStart i o s).lock = s.lock := rfl
@[simp] theorem pumpStart_cfg : (pumpStart i o s).cfg = s.cfg := rfl
@[simp] theorem pumpStart_mem : (pumpStart i o s).mem = s.mem := rfl
@[simp] theorem pumpStart_inputs : (pumpStart i o s).inputs = s.inputs := rfl
@[simp] theorem pumpStart_calls : (pumpStart i o s).calls = s.calls := rfl
@[simp] theorem pumpStart_answers : (pumpStart i o s).answers = s.answers.tail := rfl
@[simp] theorem pumpStart_fresh : (pumpStart i o s).fresh = s.fresh := rfl
@[simp] theorem pumpStart_history : (pumpStart i o s).history
    = s.history ++ [.regRead .status2 (regValue .status2 s)] := rfl

/-- The flag's read uses one answer (R78). -/
@[simp] theorem answerAt_pumpStart (n : Nat) : answerAt n (pumpStart i o s) = answerAt (n + 1) s :=
  (answerAt_congr (s := regRead .status2 s) (by rfl) (by rfl) n).trans (answerAt_regRead _ s n)

/-- Word moves behind the flag's read leave every register alone but `STATUS2` and the FIFO port. -/
theorem moveWords_pumpStart_ctl (n : Nat) (a : MemAddr) :
    { (moveWords n a (pumpStart i o s)).ctl with status2 := s.ctl.status2, fifo := s.ctl.fifo } = s.ctl :=
  congrArg (fun c : Ctl => { c with status2 := s.ctl.status2 }) (moveWords_frame n a (pumpStart i o s)).ctl

end StartFields

section Triggered

variable {s : State} (hv : s.ifV = true) (hd : s.q.hasData = true)
include hv hd

/-- With the flag clear PUMP reads it and nothing more (R172). -/
theorem pumpOp_of_not_ready (hr : pumpReady s = false) : pumpOp s = regRead .status2 s := by
  simp [pumpOp, pumpTriggered, hv, hd, hr]

/-- A ready PUMP is a transfer from the advanced cursor (R173). -/
theorem pumpOp_of_ready (hr : pumpReady s = true) {i : Nat} {o : Word} (ha : advanced s = (i, o)) :
    pumpOp s = pumpBlock (pumpStart i o s) := by
  have hcur : advanceCursor (regRead .status2 s) = pumpStart i o s := by
    rw [advanceCursor, show advanced (regRead .status2 s) = (i, o) from ha]
    rfl
  simp [pumpOp, pumpTriggered, hv, hd, hr, hcur]

/-- At the end of the list nothing is transferred (R174). -/
theorem pumpOp_of_exhausted (hr : pumpReady s = true) {i : Nat} {o : Word} (ha : advanced s = (i, o))
    (hi : s.q.segs.length ≤ i) : pumpOp s = pumpStart i o s := by
  rw [pumpOp_of_ready hv hd hr ha, pumpBlock, show (pumpStart i o s).q.segs[(pumpStart i o s).curI]? = none from
    List.getElem?_eq_none hi]

/-- In a segment, one cycle's words are moved and marked consumed (R175, R176). -/
theorem pumpOp_of_segment (hr : pumpReady s = true) {i : Nat} {o : Word} (ha : advanced s = (i, o)) {g : Segment}
    (hg : s.q.segs[i]? = some g) {len : Nat} (hlen : min (g.len.toNat - o.toNat) s.q.blksz.toNat = len) :
    pumpOp s = consume len (moveWords (len / 4) { handle := g.handle, off := g.off + o } (pumpStart i o s)) := by
  subst hlen
  rw [pumpOp_of_ready hv hd hr ha, pumpBlock, show (pumpStart i o s).q.segs[(pumpStart i o s).curI]? = some g from hg]
  rfl

end Triggered

/-! ### No transfer (R171 to R174) -/

/-- Settles O37, by the two ways through PUMP that move nothing. -/
theorem pumpNotTriggeredOrNotReadyIsNoOp : Obligations.PumpNotTriggeredOrNotReadyIsNoOp := by
  unfold Obligations.PumpNotTriggeredOrNotReadyIsNoOp
  exact fun s => ⟨fun h => congrArg _ (pumpOp_of_untriggered h), fun hv hd hr =>
    congrArg _ (pumpOp_of_not_ready hv hd ((pumpReady_eq s).trans hr))⟩

/-- With every segment from the cursor on consumed the advance ends at the end of the list (R173). -/
theorem advanced_of_consumed {s : State} (hf : ∃ g, s.q.segs[s.curI]? = some g ∧ g.len.toNat ≤ s.curO.toNat)
    (hz : ∀ j g, s.curI < j → s.q.segs[j]? = some g → g.len = 0#32) : advanced s = (s.q.segs.length, 0#32) := by
  obtain ⟨f, hf, hl⟩ := hf
  have hi : s.curI < s.q.segs.length := (List.getElem?_eq_some_iff.1 hf).1
  have hrest : ∀ g ∈ s.q.segs.drop (s.curI + 1), g.len = 0#32 := fun g hg => by
    obtain ⟨n, hn⟩ := List.mem_iff_getElem?.1 hg
    rw [List.getElem?_drop] at hn
    exact hz _ g (by omega) hn
  rw [advanced, drop_eq_cons hf, advanceFrom_step hl, advanceFrom_exhausted hrest, List.length_drop]
  congr 1
  omega

/-- A cursor at the end of the list stays (R174). -/
theorem advanced_of_atEnd {s : State} (h : s.q.segs.length ≤ s.curI) : advanced s = (s.curI, s.curO) := by
  rw [advanced, List.drop_eq_nil_of_le h, advanceFrom]

/-- Settles O38: the advance ends at the end of the list, where PUMP transfers nothing. -/
theorem pumpWithListExhaustedMovesNothing : Obligations.PumpWithListExhaustedMovesNothing := by
  unfold Obligations.PumpWithListExhaustedMovesNothing
  intro s hv hd hr
  replace hr := (pumpReady_eq s).trans hr
  exact ⟨fun hf hz => congrArg _ (pumpOp_of_exhausted hv hd hr (advanced_of_consumed hf hz) le_rfl),
    fun hi => congrArg _ (pumpOp_of_exhausted hv hd hr (advanced_of_atEnd hi) hi)⟩

/-! ### The words of one cycle (R175, R176) -/

/-- The consumed position is a number inside the segment: it does not wrap (R176). -/
theorem toNat_consumed {o len : Word} (h : o.toNat ≤ len.toNat) (b : Nat) :
    (BitVec.ofNat 32 (o.toNat + min (len.toNat - o.toNat) b)).toNat = o.toNat + min (len.toNat - o.toNat) b := by
  have hlt := len.isLt
  rw [BitVec.toNat_ofNat, Nat.mod_eq_of_lt (by omega)]

/-- Marking bytes consumed uses no answer (R176). -/
@[simp] theorem answerAt_consume (len : Nat) (s : State) (n : Nat) : answerAt n (consume len s) = answerAt n s :=
  answerAt_congr (by rfl) (by rfl) n

/-- A write transfer's word moves use no answer (R78, R175). -/
theorem answerAt_moveWords_write {s : State} (n : Nat) (a : MemAddr) (h : s.q.dir = false) (k : Nat) :
    answerAt k (moveWords n a s) = answerAt k s :=
  answerAt_congr (moveWords_answers_write n a h).1 (moveWords_answers_write n a h).2 k

/-- Settles O39: the word moves of a read transfer, from the state with the flag read and the cursor advanced. -/
theorem pumpReadStoresFifoWords : Obligations.PumpReadStoresFifoWords := by
  unfold Obligations.PumpReadStoresFifoWords
  intro s i o g hw hv hd hdir hr hg ho hcur len a
  have hready : pumpReady s = true := by simp [pumpReady_eq, hdir, hr]
  have hop : pumpOp s = consume len (moveWords (len / 4) a (pumpStart i o s)) :=
    pumpOp_of_segment hv hd hready (advanced_eq hg ho hcur) hg rfl
  have hcurO : (BitVec.ofNat 32 (o.toNat + len)).toNat = o.toNat + len := toNat_consumed ho.le _
  have hlen : 4 * (len / 4) ≤ 2 ^ 32 := by omega
  clear_value len a
  have hstart : (pumpStart i o s).q.dir = true := hdir
  refine ⟨pumpOp s, rfl, ?_⟩
  rw [hop]
  refine ⟨fun k hk => ?_, fun x hx => moveWords_read_other (s := pumpStart i o s) _ _ hw hx, ?_, ?_⟩
  · rw [consume_mem, moveWords_readWord _ _ hstart hw hlen hk, answerAt_pumpStart]
  · simp [moveWords_history_read _ _ hstart]
  · simp [hcurO, answerAt_moveWords_read _ _ hstart, moveWords_pumpStart_ctl]

/-- Settles O40: the word moves of a write transfer, from the state with the flag read and the cursor advanced. -/
theorem pumpWriteSendsMemoryWords : Obligations.PumpWriteSendsMemoryWords := by
  unfold Obligations.PumpWriteSendsMemoryWords
  intro s i o g hv hd hdir hr hg ho hcur len a
  have hready : pumpReady s = true := by simp [pumpReady_eq, hdir, hr]
  have hop : pumpOp s = consume len (moveWords (len / 4) a (pumpStart i o s)) :=
    pumpOp_of_segment hv hd hready (advanced_eq hg ho hcur) hg rfl
  have hcurO : (BitVec.ofNat 32 (o.toNat + len)).toNat = o.toNat + len := toNat_consumed ho.le _
  clear_value len a
  have hstart : (pumpStart i o s).q.dir = false := hdir
  refine ⟨pumpOp s, rfl, ?_⟩
  rw [hop]
  refine ⟨moveWords_mem_write _ _ hstart, ?_, ?_⟩
  · simp [moveWords_history_write _ _ hstart]
  · simp [hcurO, (moveWords_answers_write _ _ hstart).1, answerAt_moveWords_write _ _ hstart, moveWords_pumpStart_ctl]

/-! ### The count of bytes moved (R177) -/

/-- A cursor in the table has moved no more than the table's bytes (R177). -/
theorem movedBytes_le_totalLen {s : State} (h : CursorOk s.q.segs s.curI s.curO) :
    movedBytes s ≤ totalLen s.q.segs := by
  unfold movedBytes
  cases hg : s.q.segs[s.curI]? with
  | none => simpa [h.atEnd hg] using totalLen_take_le s.q.segs s.curI
  | some g =>
    calc totalLen (s.q.segs.take s.curI) + s.curO.toNat
      _ ≤ totalLen (s.q.segs.take s.curI) + g.len.toNat := Nat.add_le_add_left (h.offset g hg) _
      _ = totalLen (s.q.segs.take (s.curI + 1)) := (totalLen_take_succ hg).symm
      _ ≤ totalLen s.q.segs := totalLen_take_le _ _

/-- A cycle adds its length to the count, which is at most one block (R175, R176). -/
theorem movedBytes_pumpBlock {s : State} (h : CursorOk s.q.segs s.curI s.curO) :
    ∃ n ≤ s.q.blksz.toNat, movedBytes (pumpBlock s) = movedBytes s + n := by
  unfold pumpBlock
  split
  · exact ⟨0, Nat.zero_le _, rfl⟩
  · rename_i g hg
    refine ⟨pumpLen s g, Nat.min_le_right _ _, ?_⟩
    simp [movedBytes, pumpLen, toNat_consumed (h.offset g hg), Nat.add_assoc]

/-- The advance keeps the count, so PUMP adds at most one block to it (R173, R175). -/
theorem movedBytes_pumpOp {s : State} (h : CursorOk s.q.segs s.curI s.curO) :
    ∃ n ≤ s.q.blksz.toNat, movedBytes (pumpOp s) = movedBytes s + n := by
  obtain ⟨-, he⟩ | ⟨-, -, he⟩ | ⟨-, -, he⟩ := pumpOp_cases s <;> rw [he]
  · exact ⟨0, Nat.zero_le _, rfl⟩
  · exact ⟨0, Nat.zero_le _, rfl⟩
  · obtain ⟨hcur, hmoved, -⟩ := advanced_spec (s := regRead .status2 s) h
    obtain ⟨n, hn, hblock⟩ := movedBytes_pumpBlock (s := advanceCursor (regRead .status2 s)) hcur
    exact ⟨n, hn, hblock.trans (congrArg (· + n) hmoved)⟩

/-- PUMP neither makes nor discards the cursor. -/
theorem pumpOp_curV (s : State) : (pumpOp s).curV = s.curV := by
  obtain ⟨-, he⟩ | ⟨-, -, he⟩ | ⟨-, -, he⟩ := pumpOp_cases s <;> rw [he]
  · rfl
  · unfold pumpBlock
    split
    · rfl
    · simp

/-- Settles O42: PUMP adds at most one block, and the invariant it keeps holds the count to the table's bytes, the
product of R28.2. -/
theorem pumpMovesAtMostOneBlock : Obligations.PumpMovesAtMostOneBlock := by
  unfold Obligations.PumpMovesAtMostOneBlock
  rintro s _ hinv hc ⟨⟩
  obtain ⟨n, hn, hmoved⟩ := movedBytes_pumpOp (hinv.cursor hc)
  have hcur := (inv_pumpOp hinv).cursor ((pumpOp_curV s).trans hc)
  obtain ⟨-, -, -, -, htotal, -⟩ := (transferDefect_eq_none_iff _ _).1 (hinv.transfer hc)
  have hle := movedBytes_le_totalLen hcur
  rw [pumpOp_q, htotal] at hle
  exact ⟨by omega, by omega, hle⟩

end Sys2Proof.Machine
end

section
/-! PROOFS. Response capture: RESPCAP with a request in flight and without one (R180), each response kind in one
record (R181 to R185), and the conventional repacking as one shift (R183). -/

namespace Sys2Proof.Machine

/-! ### The three ways through RESPCAP (R180, R185) -/

theorem exec_respcap (st : Word) (s : State) : exec (.respcap st) s = .next (respcapOp st s) := rfl

/-- With a request in flight: the capture, then the completion of a request without data. -/
theorem exec_respcap_active {s : State} {st : Word} (hv : s.ifV = true) (hb : stBit st s.cfg.st.respEnd = true) :
    exec (.respcap st) s = .next { capture s with
      ifV := s.q.hasData
      curV := if s.q.hasData = true then s.curV else false
      history := s.history ++ responseReads s
        ++ (if s.q.hasData = true then [] else [.done (snapshotOf (capture s).q)]) } := by
  have hf := frame_capture s
  have hhist : (capture s).history = s.history ++ responseReads s := by rw [capture_eq]
  have hcurV : (capture s).curV = s.curV := by rw [capture_eq]
  have hifV : (capture s).ifV = true := by rw [capture_eq, hv]
  rw [exec_respcap, respcapOp_of_active hv hb, completeUnlessData_eq hifV, hf.hasData, hcurV, hhist]

theorem respcapOp_of_empty {s : State} {st : Word} (hv : s.ifV = false)
    (hb : stBit st s.cfg.st.respEnd = true) : respcapOp st s = emit (.log .desyncResp) s := by
  simp [respcapOp, hb, hv]

/-- Settles O48: the two ways through RESPCAP that capture nothing. -/
theorem responseWithoutCommandIsLogged : Obligations.ResponseWithoutCommandIsLogged := by
  unfold Obligations.ResponseWithoutCommandIsLogged
  refine fun s st => ⟨fun hb => ?_, fun hb hv => ?_⟩
  · rw [exec_respcap, respcapOp_of_clear hb]
  · rw [exec_respcap, respcapOp_of_empty hv hb]
    rfl

/-! ### The response kinds (R181, R182, R184) -/

/-- Settles O44: a short response is one read and its latched word. -/
theorem shortResponseIsCaptured : Obligations.ShortResponseIsCaptured := by
  unfold Obligations.ShortResponseIsCaptured
  intro s st hc hv hb hk w
  obtain ⟨-, hr32, -, hr32b⟩ := respKind_codes hc.kinds
  have hkind : respKind s.cfg s.q.rk = .r32 ∨ respKind s.cfg s.q.rk = .r32b :=
    hk.imp (fun h => by rw [h, hr32]) fun h => by rw [h, hr32b]
  have hcap : capture s = captureShort s := by obtain h | h := hkind <;> simp only [capture, h]
  rw [exec_respcap_active hv hb, (capture_short hkind).1, hcap, captureShort_eq]
  rfl

/-- Settles O45: a 136-bit response is four reads and their repacking. -/
theorem longResponseIsCapturedAndRepacked : Obligations.LongResponseIsCapturedAndRepacked := by
  unfold Obligations.LongResponseIsCapturedAndRepacked
  intro s st hc hv hb hk w0 w1 w2 w3 r q'
  obtain ⟨-, -, hr136, -⟩ := respKind_codes hc.kinds
  have hkind : respKind s.cfg s.q.rk = .r136 := hk ▸ hr136
  have hcap : capture s = captureLong s := by simp only [capture, hkind]
  rw [exec_respcap_active hv hb, (capture_long hkind).1, hcap, captureLong_eq]
  rfl

/-- Kind NONE and an unrecognised kind: no read, and nothing but the latch file and the draws touched (R180, R184). -/
theorem capture_unread {s : State} (hk : respKind s.cfg s.q.rk = .none ∨ respKind s.cfg s.q.rk = .unrecognised) :
    responseReads s = [] ∧ capture s = { s with q := (capture s).q, draws := (capture s).draws } := by
  obtain hk | hk := hk
  · obtain ⟨hreads, hcap⟩ := capture_none hk
    exact ⟨hreads, by rw [hcap]⟩
  · exact ⟨responseReads_unrecognised hk, by simp only [capture, hk]; rfl⟩

/-- Settles O47: both kinds make no access, and NONE captures nothing. -/
theorem responseReadyWithoutRegisterRead : Obligations.ResponseReadyWithoutRegisterRead := by
  unfold Obligations.ResponseReadyWithoutRegisterRead
  intro s st hc hv hb h32 h136 h32b
  obtain ⟨hnone, -⟩ := respKind_codes hc.kinds
  have hkind : respKind s.cfg s.q.rk = .none ∨ respKind s.cfg s.q.rk = .unrecognised := by
    by_cases h : s.q.rk = s.cfg.rk.none
    · exact .inl (h ▸ hnone)
    · exact .inr ((respKind_unrecognised_iff _ _).2 (by simp [h, h32, h136, h32b]))
  obtain ⟨hreads, hcap⟩ := capture_unread hkind
  refine ⟨_, (capture s).q, exec_respcap_active hv hb, fun h => ?_, capture_q s, ?_⟩
  · rw [(capture_none (h ▸ hnone)).2]
    exact ⟨rfl, rfl⟩
  · rw [hreads, List.append_nil, hcap]

/-! ### The conventional repacking (R183) -/

/-- A shift by 8 carries the top byte of each word into the one above: `b`'s into `a`, and into `b` that of the word
`c` below it. -/
theorem append_shiftLeft_eight_or {n : Nat} (a : BitVec n) (b c : Word) :
    (a ++ b) <<< 8 ||| (c >>> 24).setWidth (n + 32) =
      (a <<< 8 ||| (b >>> 24).setWidth n) ++ (b <<< 8 ||| c >>> 24) := by
  refine BitVec.eq_of_getLsbD_eq fun i hi => ?_
  simp only [BitVec.getLsbD_or, BitVec.getLsbD_shiftLeft, BitVec.getLsbD_append, BitVec.getLsbD_setWidth,
    BitVec.getLsbD_ushiftRight]
  obtain h | h := Nat.lt_or_ge i 32
  · grind
  · have hc : c.getLsbD (24 + i) = false := BitVec.getLsbD_of_ge c _ (by omega)
    obtain h' | h' := Nat.lt_or_ge i 40
    · grind
    · have hb : b.getLsbD (24 + (i - 32)) = false := BitVec.getLsbD_of_ge b _ (by omega)
      grind

/-- Settles O46: the shift of the whole response carries from word to word, with nothing below `h0`. -/
theorem repackIsOneShiftOfTheWholeResponse : Obligations.RepackIsOneShiftOfTheWholeResponse := by
  unfold Obligations.RepackIsOneShiftOfTheWholeResponse
  intro c h0 h1 h2 h3 hc
  simp only [repack136, hc]
  have hlow : (h3 ++ h2 ++ h1 ++ h0) <<< 8 = (h3 ++ h2 ++ h1 ++ h0) <<< 8 ||| (0#32 >>> 24).setWidth 128 := by simp
  rw [hlow, append_shiftLeft_eight_or, append_shiftLeft_eight_or, append_shiftLeft_eight_or]
  simp

end Sys2Proof.Machine
end

section
/-! PROOFS. Data end: the three ways through DATAEND (R190, R191), and the end of an active transfer in one record
with its byte count (R192 to R194). -/

namespace Sys2Proof.Machine

theorem exec_dataend (st : Word) (s : State) : exec (.dataend st) s = .next (dataendOp st s) := rfl

/-! ### The three ways through DATAEND (R190, R191) -/

theorem dataendOp_of_clear {s : State} {st : Word} (hb : stBit st s.cfg.st.dataEnd = false) :
    dataendOp st s = s := by
  simp [dataendOp, hb]

theorem dataendOp_of_active {s : State} {st : Word} (hv : s.ifV = true) (hd : s.q.hasData = true)
    (hb : stBit st s.cfg.st.dataEnd = true) : dataendOp st s = finishTransfer s := by
  simp [dataendOp, hb, hv, hd]

/-- With the slot empty, or a request without data: the data end is spurious (R191). -/
theorem dataendOp_of_inactive {s : State} {st : Word} (hn : s.ifV = false ∨ s.q.hasData = false)
    (hb : stBit st s.cfg.st.dataEnd = true) : dataendOp st s = emit (.log .desyncDend) s := by
  have hact : (s.ifV && s.q.hasData) = false := Bool.and_eq_false_iff.2 hn
  simp [dataendOp, hb, hact]

/-- Settles O50: the two ways through DATAEND that end no transfer. -/
theorem spuriousDataEndIsLogged : Obligations.SpuriousDataEndIsLogged := by
  unfold Obligations.SpuriousDataEndIsLogged
  refine fun s st => ⟨fun hb => ?_, fun hb hn => ?_⟩
  · rw [exec_dataend, dataendOp_of_clear hb]
  · rw [exec_dataend, dataendOp_of_inactive hn hb]
    rfl

/-! ### The end of an active transfer (R192 to R194) -/

/-- The reported count is the exact product, or 0 with either error recorded (R192, D23, D40). -/
theorem toNat_reportedBytes (r : Request) : (reportedBytes r).toNat =
    if r.err = 0#4 ∧ r.derr = 0#4 then r.blocks.toNat * r.blksz.toNat else 0 := by
  unfold reportedBytes eNone
  split
  · exact toNat_byteProduct r
  · rfl

/-- Settles O49: the finished transfer in one record, and its byte count as a number. -/
theorem dataEndReportsAndCompletes : Obligations.DataEndReportsAndCompletes := by
  unfold Obligations.DataEndReportsAndCompletes
  intro s st hv hd hb
  refine ⟨_, reportedBytes s.q, exec_dataend st s, toNat_reportedBytes s.q, ?_⟩
  rw [dataendOp_of_active hv hd hb, finishTransfer_eq hv]

end Sys2Proof.Machine
end

section
/-! PROOFS. Completion: COMPLETE with a request in flight in one record (R196, R197), and a recorded error never
cleared (R199, R273). -/

namespace Sys2Proof.Machine

theorem exec_complete (e : BitVec 4) (s : State) : exec (.complete e) s = .next (completeOp e s) := rfl

/-- Settles O25: COMPLETE in one record, the snapshot being of the latch file with the error attached. -/
theorem completeFinishesTheRequest : Obligations.CompleteFinishesTheRequest := by
  unfold Obligations.CompleteFinishesTheRequest
  refine fun s e => ⟨fun hv => ?_, fun hv => ?_⟩
  · rw [exec_complete, completeOp_of_inFlight e hv]
    rfl
  · rw [exec_complete, completeOp_of_empty e hv]

/-! ### The writers of `Q_ERR` keep a recorded error (R24, R199)

Each writes it by attaching, and `E_NONE` is not attached. -/

theorem attachError_err_ne_zero {s : State} (e : BitVec 4) (h : s.q.err ≠ 0#4) :
    (attachError e s).q.err ≠ 0#4 := by
  rw [attachError_eq]
  by_cases he : e = 0#4 <;> simp [he, h]

theorem completeOp_err_ne_zero {s : State} (e : BitVec 4) (h : s.q.err ≠ 0#4) :
    (completeOp e s).q.err ≠ 0#4 := by
  unfold completeOp
  split
  · exact attachError_err_ne_zero e h
  · exact h

theorem hotplugOp_err_ne_zero {s : State} (h : s.q.err ≠ 0#4) : (hotplugOp s).q.err ≠ 0#4 := by
  unfold hotplugOp hotplugTail
  split
  · exact h
  · exact completeOp_err_ne_zero (s := regRead .irqStatus (hwReset s)) _ h

theorem errclassOp_err_ne_zero {s : State} (st : Word) (h : s.q.err ≠ 0#4) :
    (errclassOp st s).q.err ≠ 0#4 := by
  refine attachError_err_ne_zero _ ?_
  unfold logIoError
  split <;> exact h

theorem dataendOp_err_ne_zero {s : State} (st : Word) (h : s.q.err ≠ 0#4) :
    (dataendOp st s).q.err ≠ 0#4 := by
  unfold dataendOp
  split
  · split
    · exact completeOp_err_ne_zero (s := regWrite .stop 0#32 (recordBytes s)) _ h
    · exact h
  · exact h

/-- PUMP and RESPCAP write no error, so DATAEND finds the one recorded (R163). -/
theorem handleInOrder_err_ne_zero {s : State} (st : Word) (h : s.q.err ≠ 0#4) :
    (handleInOrder st s).q.err ≠ 0#4 := by
  obtain ⟨_, _, _, _, hresp⟩ := respcapOp_q st (pumpOp s)
  refine dataendOp_err_ne_zero st ?_
  rwa [hresp, pumpOp_q]

/-- Through each of the four exits of a batch (R232). -/
theorem irq_err_ne_zero {s t : State} (h : s.q.err ≠ 0#4) (ht : exec .irq s = .next t) : t.q.err ≠ 0#4 := by
  have hack : (afterAck s).q.err ≠ 0#4 := h
  obtain ⟨hexec, hexit⟩ := irq_cases s
  obtain rfl : release _ = t := Host.Outcome.next.inj (hexec.symm.trans ht)
  obtain ⟨-, he⟩ | ⟨-, -, he⟩ | ⟨-, -, -, he⟩ | ⟨-, -, -, he⟩ := hexit <;> rw [he]
  · exact hotplugOp_err_ne_zero hack
  · exact hack
  · exact errclassOp_err_ne_zero _ hack
  · exact handleInOrder_err_ne_zero _ (errclassOp_err_ne_zero _ hack)

/-- Settles O58: a row of the table of R24 writes no error or is one of the writers above. -/
theorem recordedErrorIsNeverCleared : Obligations.RecordedErrorIsNeverCleared := by
  unfold Obligations.RecordedErrorIsNeverCleared
  intro s t i _ hv h hr ht
  obtain hq | ⟨rfl, -⟩ | ⟨rfl | ⟨st, rfl⟩ | ⟨e, rfl⟩, -⟩ | ⟨-, _, _, _, _, hq⟩ | ⟨⟨st, rfl⟩, -⟩ :=
    exec_q_cases ht hr fun _ => hv
  · rwa [hq]
  · exact irq_err_ne_zero h ht
  · cases ht
    exact hotplugOp_err_ne_zero h
  · cases ht
    split
    · exact errclassOp_err_ne_zero st h
    · exact h
  · cases ht
    exact completeOp_err_ne_zero e h
  · rwa [hq]
  · cases ht
    exact dataendOp_err_ne_zero st h

end Sys2Proof.Machine
end

section
/-! PROOFS. The bus-parameter setter APPLY: the words it computes from its operands (R111, R112, R201 to R206), its
two ways through with the state each leaves (R200, R207), and the three obligations on them. -/

namespace Sys2Proof

/-! ### The card-option word (R112, R201) -/

/-- The card-option word of each recognised width: the defaults with that width's bits (R206). -/
theorem optWord_eq_some_iff {c : Cfg} {width : BitVec 8} {opt : Half} : optWord c width = some opt ↔
    width = 1#8 ∧ opt = c.opt.retry ||| c.opt.timeout ||| c.opt.noC2 ||| c.opt.w1 ∨
    width = 4#8 ∧ opt = c.opt.retry ||| c.opt.timeout ||| c.opt.noC2 ||| c.opt.w4 := by
  unfold optWord OptCfg.defaults
  by_cases h1 : width = 1#8
  · simp [h1, eq_comm]
  by_cases h4 : width = 4#8
  · simp [h4, eq_comm]
  · simp [h1, h4]

theorem optWord_of_unrecognised {c : Cfg} {width : BitVec 8} (h1 : width ≠ 1#8) (h4 : width ≠ 4#8) :
    optWord c width = none := by
  rw [optWord, if_neg h1, if_neg h4]

/-! ### The divider code and the clock-control word (R111, R202 to R205) -/

section Clock

variable {c : Cfg} {hz : Word} {code : Half}

/-- A divider of at most 1 divides nothing (R111, D11). -/
theorem clockCode_of_le_one (h : c.srcClk / hz.toNat ≤ 1) : clockCode c hz = some c.clk.codeNoDiv :=
  if_pos h

/-- Above 1, the code is a quarter of the least power of two not below the divider, where it fits (R203, U8). -/
theorem clockCode_of_least_pow2 {k : Nat} (h : 1 < c.srcClk / hz.toNat) (hle : c.srcClk / hz.toNat ≤ 2 ^ k)
    (hleast : ∀ j, c.srcClk / hz.toNat ≤ 2 ^ j → k ≤ j) (hfit : 2 ^ k / 4 < 2 ^ c.clk.codeBits) :
    clockCode c hz = some (BitVec.ofNat 16 (2 ^ k / 4)) := by
  have hpow : pow2ceil (c.srcClk / hz.toNat) = 2 ^ k := pow2ceil_eq hle hleast
  simp [clockCode, hpow, hfit, Nat.not_le.2 h]

/-- A running clock: the code with the pin enabled, and the idle freeze from `HS_THRESHOLD` on (R204). -/
theorem clkWord_running (hne : hz ≠ 0#32) (hcode : clockCode c hz = some code) : clkWord c hz false =
    some (code ||| c.clk.pinEn ||| (if c.hsThreshold ≤ hz.toNat then c.clk.freeze else 0#16)) := by
  simp [clkWord, hne, hcode]

/-- The clock is off for a request of 0 (R202), and for every admitted request with `power_off` (R205, log 11). -/
theorem clkWord_off {off : Bool} (h : hz = 0#32 ∨ off = true ∧ applyAdmitted c hz = true) :
    clkWord c hz off = some c.clk.off := by
  by_cases hzero : hz = 0#32
  · simp [clkWord, hzero]
  · obtain ⟨rfl, hadm⟩ := h.resolve_left hzero
    obtain ⟨code, hcode⟩ : ∃ code, clockCode c hz = some code := by
      simpa [applyAdmitted, hzero, Option.isSome_iff_exists] using hadm
    simp [clkWord, hzero, hcode]

/-- An admitted clock request has a clock-control word, whatever `power_off` is (U8, log 11). -/
theorem exists_clkWord_of_admitted (off : Bool) (h : applyAdmitted c hz = true) :
    ∃ clk, clkWord c hz off = some clk := by
  rw [← Option.ne_none_iff_exists', ne_eq, clkWord_eq_none_iff, h]
  decide

end Clock

namespace Machine

/-! ### The two ways through APPLY (R200) -/

section TwoWays

variable {s : State} {hz : Word} {width : BitVec 8} {off : Bool} {clk opt : Half}

/-- With both words: `CLKCTL`, `OPT`, the settle delay, and nothing else (R206, R207). -/
theorem exec_apply_recognised (hclk : clkWord s.cfg hz off = some clk) (hopt : optWord s.cfg width = some opt) :
    exec (.apply hz width off) s = .next { s with
      lock := .free
      ctl := { s.ctl with
        clkCtl := truncToReg s.cfg .clkCtl (clk.setWidth 32), opt := truncToReg s.cfg .opt (opt.setWidth 32) }
      history := s.history ++ [.regWrite .clkCtl (truncToReg s.cfg .clkCtl (clk.setWidth 32)),
        .regWrite .opt (truncToReg s.cfg .opt (opt.setWidth 32)), .delay .tSettle] } := by
  simp [exec, execApply, hclk, hopt, applyWrites, regWrite, Ctl.accept, Ctl.set, emit, acquire, release]

/-- With no card-option word: the log event, and nothing else (R201). -/
theorem exec_apply_unrecognised (hclk : clkWord s.cfg hz off = some clk) (hopt : optWord s.cfg width = none) :
    exec (.apply hz width off) s = .next { s with
      lock := .free, history := s.history ++ [.log (.configWidth width)] } := by
  simp only [exec, execApply, hclk, hopt]
  rfl

end TwoWays

/-- Settles O19: the divider has a code in both cases of R111, so with the power on the clock runs. -/
theorem applyProgramsClockAndWidth : Obligations.ApplyProgramsClockAndWidth := by
  unfold Obligations.ApplyProgramsClockAndWidth
  rintro s hz width opt code clk hopt hpos hdiv rfl
  have hne : hz ≠ 0#32 := by
    rintro rfl
    simp at hpos
  have hcode : clockCode s.cfg hz = some code := by
    obtain ⟨hle, rfl⟩ | ⟨hlt, k, hk, hleast, hfit, rfl⟩ := hdiv
    · exact clockCode_of_le_one hle
    · exact clockCode_of_least_pow2 hlt hk hleast hfit
  exact exec_apply_recognised (clkWord_running hne hcode) (optWord_eq_some_iff.2 hopt)

/-- Settles O20: both premises give `CLK_OFF` as the clock-control word; the width's options are written all the
same. -/
theorem applyTurnsTheClockOff : Obligations.ApplyTurnsTheClockOff := by
  unfold Obligations.ApplyTurnsTheClockOff
  intro s hz width off opt hopt hoff
  have hclk : clkWord s.cfg hz off = some s.cfg.clk.off :=
    clkWord_off (hoff.imp_right fun ⟨hp, hfit⟩ => ⟨hp, (applyAdmitted_iff s.cfg hz).2 (.inr hfit)⟩)
  exact exec_apply_recognised hclk (optWord_eq_some_iff.2 hopt)

/-- Settles O21: an admitted clock request is not refused, and the width has no card-option word. -/
theorem applyUnknownWidthIsLoggedNoOp : Obligations.ApplyUnknownWidthIsLoggedNoOp := by
  unfold Obligations.ApplyUnknownWidthIsLoggedNoOp
  intro s hz width off h1 h4 hadm
  obtain ⟨clk, hclk⟩ := exists_clkWord_of_admitted off ((applyAdmitted_iff s.cfg hz).2 hadm)
  exact exec_apply_unrecognised hclk (optWord_of_unrecognised h1 h4)

end Machine

end Sys2Proof
end

section
/-! PROOFS. The queries and the SDIO relay: the one status read that both queries answer from (R210, R212), the enable
bit (R214) and the two ways through SDIO_IRQ (R215). -/

namespace Sys2Proof.Machine

/-! ### GET_CD and GET_RO (R210, R212) -/

/-- A query: one read of the status, and its answer. The read is the presence read of SUBMIT (D15). -/
theorem answeredStatusRead_eq (answer : Bool) (s : State) :
    release (emit (.ret answer) (regRead .irqStatus (acquire s))) = { consumeAnswer s with
      lock := .free
      ctl := { s.ctl with irqStatus := regValue .irqStatus s }
      history := s.history ++ [.regRead .irqStatus (regValue .irqStatus s), .ret answer] } := by
  rw [presenceRead_eq]
  simp [emit, release]

/-- Settles O23: both queries are the answered status read; GET_RO's answer compares a bit with the polarity. -/
theorem queriesAnswerFromOneStatusRead : Obligations.QueriesAnswerFromOneStatusRead := by
  unfold Obligations.QueriesAnswerFromOneStatusRead
  intro s
  constructor
  · exact congrArg Host.Outcome.next (answeredStatusRead_eq _ s)
  · rw [← beq_eq_decide]
    exact congrArg Host.Outcome.next (answeredStatusRead_eq _ s)

/-! ### SDIO_EN and SDIO_IRQ (R214, R215) -/

/-- The enable bit alone is written, and the lock freed (R214, D31). -/
theorem exec_sdioEn (en : Bool) (s : State) :
    exec (.sdioEn en) s = .next { s with lock := .free, sdioEn := en } := rfl

/-- With the relay enabled: one notification (R215). -/
theorem exec_sdioIrq_enabled {s : State} (h : s.sdioEn = true) :
    exec .sdioIrq s = .next { s with lock := .free, history := s.history ++ [.sdio] } := by
  simp [exec, execSdioIrq, h, emit, acquire, release]

/-- With the relay disabled: nothing but the lock (R215, D31). -/
theorem exec_sdioIrq_disabled {s : State} (h : s.sdioEn = false) :
    exec .sdioIrq s = .next { s with lock := .free } := by
  simp [exec, execSdioIrq, h, acquire, release]

/-- Settles O24: SDIO_EN in one record, and SDIO_IRQ by the enable bit. -/
theorem sdioEnableAndRelay : Obligations.SdioEnableAndRelay := by
  unfold Obligations.SdioEnableAndRelay
  intro s en
  refine ⟨exec_sdioEn en s, ?_⟩
  by_cases h : s.sdioEn = true
  · rw [exec_sdioIrq_enabled h, if_pos h]
  · rw [exec_sdioIrq_disabled (Bool.eq_false_of_not_eq_true h), if_neg h, List.append_nil]

end Sys2Proof.Machine
end

section
/-! PROOFS. Faults and stopping: which instructions set `FAULT` (R227), the three steps that run nothing (R31, R236), and
what ATTACH_RESET clears and leaves alone (R250, R251). -/

namespace Sys2Proof.Machine

/-! ### The one condition that sets `FAULT` (R227) -/

/-- Settles O55, by the instruction's case of `exec_cases`: only a SUBMIT row raises, and every other operation
keeps `FAULT` by its frame. -/
theorem onlyBusySubmitSetsFault : Obligations.OnlyBusySubmitSetsFault := by
  unfold Obligations.OnlyBusySubmitSetsFault
  intro s t i h hr
  obtain ⟨rfl, -⟩ | ⟨req, hs, -⟩ | ⟨en, rfl, rfl⟩ | ⟨-, -, hs, u, hf, rfl⟩ | ⟨-, -, hs, hf⟩ := exec_cases h
  · exact absurd rfl hr
  · obtain ⟨-, -, -, -, -, -, -, hfault, -⟩ := submit_frame hs h
    simp [hs, hfault]
  · simp [Instr.submitted]
  · simp [hs, hf.fault]
  · simp [hs, hf.fault]

/-! ### The steps that run no instruction (R31, R236) -/

/-- With `FAULT` set nothing is fetched (R31; log 4). -/
theorem fetch_faulted {s : State} {f : Fault} (hf : s.fault = some f) : fetch s = .faulted f := by
  simp [fetch, hf]

/-- An operation in progress with no call left returns (R236; log 18). -/
theorem fetch_finish {s : State} (hf : s.fault = none) (hl : s.lock = .held) (hc : s.calls = []) :
    fetch s = .finish := by
  simp [fetch, hf, hl, hc]

/-- With the lock free and nothing presented nothing is selected (log 2). -/
theorem fetch_idle {s : State} (hf : s.fault = none) (hl : s.lock = .free) (hi : s.inputs = []) :
    fetch s = .idle := by
  simp [fetch, hf, hl, hi]

/-- Settles O6: one fetch for each clause. -/
theorem stepStopsOrStandsStill : Obligations.StepStopsOrStandsStill := by
  unfold Obligations.StepStopsOrStandsStill
  refine fun s => ⟨fun f hf => ?_, fun hf hl hc => ?_, fun hf hl hi => ?_⟩
  · rw [step, fetch_faulted hf]
  · rw [step, fetch_finish hf hl hc]
    rfl
  · rw [step, fetch_idle hf hl hi]

/-! ### ATTACH_RESET (R250, R251) -/

/-- ATTACH_RESET completes from every state (R250). -/
theorem exec_attachReset (s : State) : exec .attachReset s = .next (attachResetOp s) := rfl

/-- Settles O9: each clause is a field of the state that the reset leaves, cleared (R250) or not written (R251). -/
theorem attachResetClearsControlState : Obligations.AttachResetClearsControlState := by
  unfold Obligations.AttachResetClearsControlState
  intro s
  have hmem : (attachResetOp s).mem = s.mem := rfl
  exact ⟨attachResetOp s, exec_attachReset s, rfl, rfl, rfl, rfl, rfl, rfl, rfl, rfl, rfl, rfl, rfl, rfl,
    fun a => by rw [hmem]⟩

end Sys2Proof.Machine
end
